-- ==== Sys2Proof/Word.lean ====
section
/-! DEFINITION. The word types of CAE-SYNTH: the 32-bit interface word (20_memory.md R76, R78), the byte of a byte-wide
medium (R76) and F, the binary32 pattern (00_scope.md R12). The arithmetic on F stands in Machine/Float.lean. -/

namespace Sys2Proof

/-- One word of the command port, the response port or a u32 register (20_memory.md R76): bit 31 most significant. -/
abbrev Word := BitVec 32

/-- One byte of a byte-wide medium that a word crosses (20_memory.md R76). -/
abbrev Byte := BitVec 8

/-- F of 00_scope.md R12: an IEEE 754 binary32 value as its bit pattern, sign in bit 31, biased exponent in bits 30:23,
fraction in bits 22:0 (20_memory.md R76). READ_REG returns exactly this pattern (10_state.md R40). -/
abbrev F32 := BitVec 32

/-- The four arithmetic operations of F (00_scope.md R12). -/
inductive FOp where
  | add
  | sub
  | mul
  | div
  deriving DecidableEq, Repr

end Sys2Proof
end

