-- ==== Sys2Proof/Config.lean ====
section
/-! DEFINITION. What an instance of CAE-SYNTH fixes: the parameters of 00_scope.md R8, the constraints of R9, the fixed
constants of R10, and the FREE VALUES (opaque constants without a body) for what the spec leaves open. -/

namespace Sys2Proof

/-- BACKEND (00_scope.md R8): the format of the frames. -/
inductive Backend where
  | digitalStereo
  | analogMono
  deriving DecidableEq, Repr

/-- PHASE_REPR (00_scope.md R8). -/
inductive PhaseRepr where
  | float
  | q16
  deriving DecidableEq, Repr

/-- SINE_MODE (00_scope.md R8). -/
inductive SineMode where
  | table
  | direct
  deriving DecidableEq, Repr

/-- ENV_ARITH (00_scope.md R8). -/
inductive EnvArith where
  | real
  | integer
  deriving DecidableEq, Repr

/-- LFSR_FORM (00_scope.md R8). -/
inductive LfsrForm where
  | galois
  | fibonacci
  deriving DecidableEq, Repr

/-- NOISE_REDUCE (00_scope.md R8). -/
inductive NoiseReduce where
  | low16
  | high16
  deriving DecidableEq, Repr

/-- WAVEFORM_LATCH (00_scope.md R8). -/
inductive WaveformLatch where
  | atNoteOn
  | live
  deriving DecidableEq, Repr

/-- LFO_CALLS_PER_SAMPLE (00_scope.md R8). -/
inductive LfoCalls where
  | one
  | two
  deriving DecidableEq, Repr

/-- REVERB_LEN_MODE (00_scope.md R8). -/
inductive ReverbLenMode where
  | fixed
  | scaled
  deriving DecidableEq, Repr

/-- INIT_SETTINGS (00_scope.md R8): one field for every setting of 10_state.md R22, before the clamp of
70_reset_and_hazards.md R306. Integer fields are natural numbers of any size, enables are 0 or nonzero (log entry 14). -/
structure InitSettings where
  sampleRate : Nat
  voiceCount : Nat
  masterVolume : Nat
  waveform : Nat
  lfoEnable : Nat
  lfoVibrato : Nat
  lfoTremolo : Nat
  lfoRate : F32
  lfoDepth : F32
  filterEnable : Nat
  filterType : Nat
  filterCutoff : F32
  filterResonance : F32
  eqEnable : Nat
  eqBassGain : F32
  eqMidGain : F32
  eqTrebleGain : F32
  reverbEnable : Nat
  reverbRoomSize : F32
  reverbDamping : F32
  reverbWet : F32
  delayEnable : Nat
  delayTime : F32
  delayFeedback : F32
  delayMix : F32
  deriving DecidableEq, Repr

/-- The parameters of 00_scope.md R8. A parameter with a default has it here; an OPEN one has none. The functions sinF,
cosF, pow2F and pow10F are the opaque constants below (State is plain data). -/
structure Config where
  maxVoices : Nat
  srMin : Nat := 8000
  srMax : Nat := 48000
  backend : Backend
  phaseRepr : PhaseRepr
  sineMode : SineMode := .table
  envArith : EnvArith := .real
  attackSamples : Nat
  decaySamples : Nat
  releaseSamples : Nat
  sustainLevel : Nat
  lfsrForm : LfsrForm := .galois
  noiseReduce : NoiseReduce := .low16
  lfsrReseedOnNoteOn : Bool := false
  waveformLatch : WaveformLatch := .atNoteOn
  lfoCallsPerSample : LfoCalls := .one
  reverbLenMode : ReverbLenMode := .fixed
  reverbRefRate : Nat
  memWords : Nat
  init : InitSettings
  deriving DecidableEq, Repr

/-- MAX_DELAY_MS (00_scope.md R8): fixed. -/
def maxDelayMs : Nat := 1000

/-- FS, full scale (00_scope.md R10). -/
def fullScale : Nat := 32767

/-- The LFSR seed (00_scope.md R10). -/
def lfsrSeed : Word := 0x0000ACE1

/-- The test configuration TC of 92_eei_decisions.md D45: the instance that `State.reset` is the reset of. The OPEN
parameters have no default (R8), so this is a DESIGN CHOICE (log entry 5); every other instance has `State.resetOf`.
REVERB_REF_RATE is unused under FIXED lengths. -/
def testConfig : Config :=
  { maxVoices := 4
    backend := .digitalStereo
    phaseRepr := .float
    attackSamples := 4
    decaySamples := 4
    releaseSamples := 4
    sustainLevel := 128
    reverbRefRate := 1
    memWords := 65536
    init :=
      { sampleRate := 28160
        voiceCount := 4
        masterVolume := 255
        waveform := 0
        lfoEnable := 0
        lfoVibrato := 0
        lfoTremolo := 0
        lfoRate := 0x40A00000
        lfoDepth := 0
        filterEnable := 0
        filterType := 0
        filterCutoff := 0x447A0000
        filterResonance := 0x3F000000
        eqEnable := 0
        eqBassGain := 0
        eqMidGain := 0
        eqTrebleGain := 0
        reverbEnable := 0
        reverbRoomSize := 0x3F000000
        reverbDamping := 0x3F000000
        reverbWet := 0x3F000000
        delayEnable := 0
        delayTime := 0x437A0000
        delayFeedback := 0x42480000
        delayMix := 0x42480000 } }

/-- FREE VALUE (log entry 4): sinF before the properties of 00_scope.md R13 are imposed on it. -/
opaque Config.sinRaw : F32 → F32

/-- FREE VALUE (log entry 4): cosF before the properties of 00_scope.md R13 are imposed on it. -/
opaque Config.cosRaw : F32 → F32

/-- FREE VALUE (log entry 4): pow2F at the arguments for which 00_scope.md R13 states nothing. -/
opaque Config.pow2Raw : F32 → F32

/-- FREE VALUE (log entry 4): pow10F at the arguments for which 00_scope.md R13 states nothing. -/
opaque Config.pow10Raw : F32 → F32

/-- FREE VALUE (log entry 1): the sign of the NaN that an operation delivers. -/
opaque Config.nanSign : FOp → F32 → F32 → Bool

/-- FREE VALUE (log entry 1): the fraction of the NaN that an operation delivers. -/
opaque Config.nanFraction : FOp → F32 → F32 → Nat

/-- FREE VALUE (log entry 2): floor of a value that is no finite number. -/
opaque Config.freeFloor : F32 → Int

/-- FREE VALUE (log entry 2): the u32 of a floor that lies outside 0 to 2^32 - 1. -/
opaque Config.freeU32 : F32 → Word

/-- FREE VALUE (log entry 3): the interpolated sine at a phase outside [0, 1). -/
opaque Config.freeSine : F32 → F32

end Sys2Proof
end

