-- ==== Sys2Proof/Machine/Float.lean ====
section
/-! DEFINITION. The arithmetic of F (00_scope.md R12, R14): binary32, round to nearest even, subnormals honoured, one
operation at a time. A finite F is an integer number of units of 2^-149, so every operation is computed exactly on integers
and rounded once, by `fRoundMagnitude`. The functions sinF, cosF, pow2F and pow10F have the properties of R13 and no others. -/

namespace Sys2Proof.Machine

/-- The sign, bit 31 (20_memory.md R76). -/
def fSign (x : F32) : Bool := x.msb

/-- The biased exponent, bits 30:23 (20_memory.md R76). -/
def fExponent (x : F32) : Nat := x.toNat / 2 ^ 23 % 2 ^ 8

/-- The fraction, bits 22:0 (20_memory.md R76). -/
def fFraction (x : F32) : Nat := x.toNat % 2 ^ 23

/-- A NaN: exponent 0xFF and a nonzero fraction (60_exceptions.md R288 code 3), of either sign, quiet or signalling. -/
def fIsNaN (x : F32) : Bool := fExponent x == 255 && fFraction x != 0

/-- An infinity: exponent 0xFF and fraction zero. -/
def fIsInf (x : F32) : Bool := fExponent x == 255 && fFraction x == 0

/-- Neither a NaN nor an infinity. -/
def fIsFinite (x : F32) : Bool := fExponent x != 255

/-- The magnitude in units of 2^-149. An infinity has 2^277, above that of every finite F, so that comparisons need no
case for it. -/
def fMagnitude (x : F32) : Nat :=
  if fExponent x = 0 then fFraction x else (2 ^ 23 + fFraction x) * 2 ^ (fExponent x - 1)

/-- The value in units of 2^-149 (an infinity: beyond every finite F). -/
def fUnits (x : F32) : Int := if fSign x then -(fMagnitude x : Int) else fMagnitude x

/-- One, in units of 2^-149. -/
def fOneUnits : Nat := 2 ^ 149

/-- The pattern of a sign and the 31 bits below it. -/
def fPack (negative : Bool) (magnitude : Nat) : F32 := BitVec.ofNat 32 ((if negative then 2 ^ 31 else 0) + magnitude)

/-- The bits 30:0 of the F nearest n/d units of 2^-149, ties to the even one (00_scope.md R12): 24 significant bits, or
the fixed spacing of one unit for a subnormal; beyond the largest finite F, infinity. -/
def fRoundMagnitude (n d : Nat) : Nat :=
  let e := Nat.log2 (n / d) - 23
  let step := d * 2 ^ e
  let q := n / step
  let r := n % step
  let q' := if 2 * r > step ∨ (2 * r = step ∧ q % 2 = 1) then q + 1 else q
  min (e * 2 ^ 23 + q') 0x7F800000

/-- The F nearest ±n/d units of 2^-149. -/
def fRound (negative : Bool) (n d : Nat) : F32 := fPack negative (fRoundMagnitude n d)

/-- The infinity of a sign. -/
def fInf (negative : Bool) : F32 := fPack negative 0x7F800000

/-- The zero of a sign. -/
def fZero (negative : Bool) : F32 := fPack negative 0

/-- The NaN that an operation delivers: its sign and its fraction are free values (log entry 1). -/
def fNaN (op : FOp) (x y : F32) : F32 :=
  fPack (Config.nanSign op x y) (0x7F800001 + Config.nanFraction op x y % (2 ^ 23 - 1))

/-- The negation: bit 31 flipped. -/
def fNeg (x : F32) : F32 := x ^^^ 0x80000000

/-- Addition of two values that are no NaN (00_scope.md R12). An exact zero sum is +0 unless both operands are negative
zeros. -/
def fSum (op : FOp) (x y : F32) : F32 :=
  if fIsInf x then
    if fIsInf y && fSign x != fSign y then fNaN op x y else x
  else if fIsInf y then y
  else
    let v := fUnits x + fUnits y
    fRound (if v = 0 then fSign x && fSign y else decide (v < 0)) v.natAbs 1

/-- x + y of F (00_scope.md R12). -/
def fAdd (x y : F32) : F32 := if fIsNaN x || fIsNaN y then fNaN .add x y else fSum .add x y

/-- x - y of F (00_scope.md R12). -/
def fSub (x y : F32) : F32 := if fIsNaN x || fIsNaN y then fNaN .sub x y else fSum .sub x (fNeg y)

/-- x × y of F (00_scope.md R12). -/
def fMul (x y : F32) : F32 :=
  if fIsNaN x || fIsNaN y then fNaN .mul x y
  else if fIsInf x || fIsInf y then
    if fMagnitude x = 0 ∨ fMagnitude y = 0 then fNaN .mul x y else fInf (fSign x != fSign y)
  else fRound (fSign x != fSign y) (fMagnitude x * fMagnitude y) fOneUnits

/-- x / y of F (00_scope.md R12). -/
def fDiv (x y : F32) : F32 :=
  if fIsNaN x || fIsNaN y then fNaN .div x y
  else if fIsInf x then
    if fIsInf y then fNaN .div x y else fInf (fSign x != fSign y)
  else if fIsInf y then fZero (fSign x != fSign y)
  else if fMagnitude y = 0 then
    if fMagnitude x = 0 then fNaN .div x y else fInf (fSign x != fSign y)
  else fRound (fSign x != fSign y) (fMagnitude x * fOneUnits) (fMagnitude y)

/-- x < y of F (00_scope.md R12): false with a NaN, -0 = +0. -/
def fLt (x y : F32) : Bool := !fIsNaN x && !fIsNaN y && decide (fUnits x < fUnits y)

/-- x <= y of F (00_scope.md R12). -/
def fLe (x y : F32) : Bool := !fIsNaN x && !fIsNaN y && decide (fUnits x ≤ fUnits y)

/-- x = y of F (00_scope.md R12). -/
def fEq (x y : F32) : Bool := !fIsNaN x && !fIsNaN y && decide (fUnits x = fUnits y)

/-- x != y of F (00_scope.md R12): true with a NaN. -/
def fNe (x y : F32) : Bool := !fEq x y

/-- F(n) of 00_scope.md R12: the F nearest an integer. -/
def fOfInt (z : Int) : F32 := fRound (decide (z < 0)) (z.natAbs * fOneUnits) 1

/-- F(n) of 00_scope.md R12 for a natural number. -/
def fOfNat (n : Nat) : F32 := fRound false (n * fOneUnits) 1

/-- A decimal literal p/q of the pseudocode (00_scope.md R12): the F nearest that decimal. -/
def fDecimal (p q : Nat) : F32 := fRound false (p * fOneUnits) q

/-- PI_F, the F nearest π (00_scope.md R12). -/
def piF : F32 := 0x40490FDB

/-- TWO_PI_F, the F nearest 2π (00_scope.md R12). -/
def twoPiF : F32 := 0x40C90FDB

/-- floor of 00_scope.md R11 for a finite F; of any other F a free value (log entry 2). -/
def fFloor (x : F32) : Int := if fIsFinite x then fUnits x / (fOneUnits : Int) else Config.freeFloor x

/-- A floor taken as a u32 (42_voice.md R143, R148): free where the floor is no u32 (log entry 2). -/
def fFloorU32 (x : F32) : Word :=
  if 0 ≤ fFloor x ∧ fFloor x < 2 ^ 32 then BitVec.ofInt 32 (fFloor x) else Config.freeU32 x

/-- toInt16 of 00_scope.md R14. -/
def toInt16 (v : F32) : BitVec 16 :=
  if fIsNaN v then 0
  else if fLe (fOfNat 32767) v then 32767
  else if fLe v (fOfInt (-32768)) then BitVec.ofInt 16 (-32768)
  else BitVec.ofInt 16 ((fUnits v).tdiv (fOneUnits : Int))

/-- clampF of 00_scope.md R14. -/
def clampF (v lo hi : F32) : F32 := if fLt v lo then lo else if fLt hi v then hi else v

/-- The integer that a finite F is, if it is one. -/
def fInteger? (x : F32) : Option Int :=
  if fIsFinite x && decide (fUnits x % (fOneUnits : Int) = 0) then some (fUnits x / (fOneUnits : Int)) else none

/-- 00_scope.md R13: a result of sinF or cosF lies in [-1, 1]; a free value that does not is no such result. -/
def unitResult (r : F32) : F32 := if fLe (fOfInt (-1)) r && fLe r (fOfNat 1) then r else 0

/-- sinF (00_scope.md R13): 0 at 0, every result in [-1, 1], nothing else known (log entry 4). -/
def sinF (x : F32) : F32 :=
  if x = 0 then 0
  else if fMagnitude x = 0 then fZero (fSign (Config.sinRaw x))
  else unitResult (Config.sinRaw x)

/-- cosF (00_scope.md R13): every result in [-1, 1], nothing else known (log entry 4). -/
def cosF (x : F32) : F32 := unitResult (Config.cosRaw x)

/-- pow2F (00_scope.md R13): 2^k at the integers k with 2^k an F, nothing else known (log entry 4). -/
def pow2F (x : F32) : F32 :=
  match fInteger? x with
  | some k => if -149 ≤ k ∧ k ≤ 127 then fRound false (2 ^ (k + 149).toNat) 1 else Config.pow2Raw x
  | none => Config.pow2Raw x

/-- pow10F (00_scope.md R13): 10^k at the integers k with 10^k an F (0 to 10), nothing else known (log entry 4). -/
def pow10F (x : F32) : F32 :=
  match fInteger? x with
  | some k => if 0 ≤ k ∧ k ≤ 10 then fOfNat (10 ^ k.toNat) else Config.pow10Raw x
  | none => Config.pow10Raw x

end Sys2Proof.Machine
end

