-- ==== Sys2Proof/Machine/Records.lean ====
section
/-! DEFINITION. The records State is made of, as plain data: the settings (10_state.md R22), the derived coefficients (R24),
the voice bank's records (R25, R26), the LFO, filter, EQ, reverb and delay state (R28 to R32), STATUS (R33), the output
frame (46_mixer.md R257) and the arrivals on the command port (20_memory.md R82, 30_encoding.md R99). -/

namespace Sys2Proof.Machine

/-- The waveform codes 0 to 4 of 10_state.md R38, in their order. No other code can be held (log entry 22). -/
inductive Waveform where
  | sine
  | square
  | sawtooth
  | triangle
  | noise
  deriving DecidableEq, Repr

/-- The filter type codes 0 to 2 of 10_state.md R39, in their order. -/
inductive FilterType where
  | lowpass
  | highpass
  | bandpass
  deriving DecidableEq, Repr

/-- The envelope state codes 0 to 4 of 10_state.md R26, in their order. -/
inductive EnvState where
  | off
  | attack
  | decay
  | sustain
  | release
  deriving DecidableEq, Repr

/-- The settings of 10_state.md R22. -/
structure Settings where
  sampleRate : Word
  voiceCount : BitVec 8
  masterVolume : BitVec 8
  waveform : Waveform
  lfoEnable : Bool
  lfoVibrato : Bool
  lfoTremolo : Bool
  lfoRate : F32
  lfoDepth : F32
  filterEnable : Bool
  filterType : FilterType
  filterCutoff : F32
  filterResonance : F32
  eqEnable : Bool
  eqBassGain : F32
  eqMidGain : F32
  eqTrebleGain : F32
  reverbEnable : Bool
  reverbRoomSize : F32
  reverbDamping : F32
  reverbWet : F32
  delayEnable : Bool
  delayTime : F32
  delayFeedback : F32
  delayMix : F32
  deriving DecidableEq, Repr

/-- The five coefficients of one EQ band (44_filter_eq.md R199), a0 = 1. -/
structure BandCoef where
  b0 : F32
  b1 : F32
  b2 : F32
  a1 : F32
  a2 : F32
  deriving DecidableEq, Repr

/-- The derived coefficients of 10_state.md R24 (REVERB_LEN stands in `Reverb`, where R31 holds it). -/
structure Derived where
  lfoInc : F32
  filterF : F32
  filterQ : F32
  /-- EQ_COEF[0..2]: bass, mid, treble. -/
  eqCoef : Vector BandCoef 3
  reverbFb : F32
  delayN : Word
  delayD : Word
  deriving DecidableEq, Repr

/-- The envelope sub-state of a voice (10_state.md R25, R26). -/
structure Env where
  state : EnvState
  counter : Word
  deriving DecidableEq, Repr

/-- A voice record (10_state.md R25). `phase` and `inc` hold an F when PHASE_REPR is FLOAT and a u32 when it is Q16_16
(log entry 18). -/
structure Voice where
  active : Bool
  note : BitVec 7
  velocity : BitVec 7
  waveform : Waveform
  phase : Word
  inc : Word
  lfsr : Word
  env : Env
  deriving DecidableEq, Repr

/-- The state-variable filter's state (10_state.md R29). -/
structure Svf where
  low : F32
  band : F32
  deriving DecidableEq, Repr

/-- The history of one EQ band (10_state.md R30). -/
structure EqHistory where
  x1 : F32
  x2 : F32
  y1 : F32
  y2 : F32
  deriving DecidableEq, Repr

/-- Buffer memory (20_memory.md R70): the listed words of F by word index, rising, none equal to +0, which is what an
unlisted word reads as (log entry 10). -/
abbrev Memory := List (Nat × F32)

/-- The reverb state (10_state.md R31): buffers 0 to 3 are the combs, 4 and 5 the allpasses. -/
structure Reverb where
  allocated : Bool
  base : Word
  /-- REVERB_LEN[0..5] in use. -/
  len : Vector Word 6
  idx : Vector Word 6
  fs : Vector F32 4
  deriving DecidableEq, Repr

/-- The delay state (10_state.md R32). -/
structure Delay where
  allocated : Bool
  base : Word
  size : Word
  wp : Word
  deriving DecidableEq, Repr

/-- Buffer memory with its two possible regions (20_memory.md R72 to R74) and MEM_FREE (10_state.md R36). -/
structure Pool where
  mem : Memory
  free : Word
  rev : Reverb
  dly : Delay
  deriving DecidableEq, Repr

/-- The stored part of STATUS (10_state.md R33): bits 6:0 and LAST_CODE. HALTED is a copy of `halted`, assembled at the
read (47_system.md R267). -/
structure Status where
  sticky : BitVec 7
  lastCode : BitVec 8
  deriving DecidableEq, Repr

/-- One output frame (46_mixer.md R257). -/
inductive Frame where
  | stereo (left right : BitVec 16)
  | mono (sample : BitVec 16)
  deriving DecidableEq, Repr

/-- The two agents of 20_memory.md R82. -/
inductive Agent where
  | host
  | sampleClock
  deriving DecidableEq, Repr

/-- What reaches the block: a word of an agent on the command port, or an assertion of reset by the platform
(70_reset_and_hazards.md R305). -/
inductive Arrival where
  | word (agent : Agent) (w : Word)
  | reset
  deriving DecidableEq, Repr

/-- The first word of each agent's pending format-P command (30_encoding.md R99), if it has one. -/
structure Pending where
  host : Option Word
  clock : Option Word
  deriving DecidableEq, Repr

/-- The voice record at reset (10_state.md R25). -/
def idleVoice : Voice :=
  { active := false, note := 0, velocity := 0, waveform := .sine, phase := 0, inc := 0, lfsr := lfsrSeed,
    env := { state := .off, counter := 0 } }

/-- No pending command (70_reset_and_hazards.md R308). -/
def noPending : Pending := { host := none, clock := none }

end Sys2Proof.Machine
end

