-- ==== Sys2Proof/Machine/Coefficients.lean ====
section
/-! DEFINITION. The clamps of the settings (10_state.md R22), the derived coefficients as functions of the settings (R24), the
settings at reset (70_reset_and_hazards.md R306) and the constraints on a parameter set (00_scope.md R8, R9). -/

namespace Sys2Proof.Machine

/-- min(max(x, lo), hi) on natural numbers. -/
def clampNat (x lo hi : Nat) : Nat := min (max x lo) hi

/-- The waveform of a code, clamped to 4 (42_voice.md R172; 10_state.md R38). -/
def waveformOfCode (code : Nat) : Waveform :=
  match min code 4 with
  | 0 => .sine
  | 1 => .square
  | 2 => .sawtooth
  | 3 => .triangle
  | _ => .noise

/-- The filter type of a code, clamped to 2 (44_filter_eq.md R210; 10_state.md R39). -/
def filterTypeOfCode (code : Nat) : FilterType :=
  match min code 2 with
  | 0 => .lowpass
  | 1 => .highpass
  | _ => .bandpass

/-- SAMPLE_RATE clamped to SR_MIN..SR_MAX (47_system.md R275). -/
def clampSampleRate (cfg : Config) (rate : Nat) : Word := BitVec.ofNat 32 (clampNat rate cfg.srMin cfg.srMax)

/-- VOICE_COUNT clamped to 1..MAX_VOICES (47_system.md R278). -/
def clampVoiceCount (cfg : Config) (count : Nat) : BitVec 8 := BitVec.ofNat 8 (clampNat count 1 cfg.maxVoices)

/-- LFO_RATE clamped (43_lfo.md R189). -/
def clampLfoRate (x : F32) : F32 := clampF x (fDecimal 1 10) (fOfNat 20)

/-- LFO_DEPTH clamped (43_lfo.md R190). -/
def clampLfoDepth (x : F32) : F32 := clampF x (fOfNat 0) (fOfNat 100)

/-- FILTER_CUTOFF clamped (44_filter_eq.md R211). -/
def clampCutoff (x : F32) : F32 := clampF x (fOfNat 20) (fOfNat 20000)

/-- FILTER_RESONANCE clamped (44_filter_eq.md R212). -/
def clampResonance (x : F32) : F32 := clampF x (fOfNat 0) (fDecimal 99 100)

/-- An EQ gain clamped (44_filter_eq.md R214 to R216). -/
def clampGain (x : F32) : F32 := clampF x (fOfInt (-12)) (fOfNat 12)

/-- A fraction in [0, 1] clamped: room size, damping, wet (45_reverb_delay.md R239 to R241). -/
def clampUnit (x : F32) : F32 := clampF x (fOfNat 0) (fOfNat 1)

/-- DELAY_TIME clamped (45_reverb_delay.md R243). -/
def clampDelayTime (x : F32) : F32 := clampF x (fOfNat 10) (fOfNat 1000)

/-- DELAY_FEEDBACK clamped (45_reverb_delay.md R244). -/
def clampFeedback (x : F32) : F32 := clampF x (fOfNat 0) (fOfNat 90)

/-- DELAY_MIX clamped (45_reverb_delay.md R245). -/
def clampMix (x : F32) : F32 := clampF x (fOfNat 0) (fOfNat 100)

/-- SR of the rules: F(SAMPLE_RATE). -/
def fSampleRate (rate : Word) : F32 := fOfNat rate.toNat

/-- LFO_INC (43_lfo.md R180). -/
def lfoIncOf (lfoRate : F32) (rate : Word) : F32 := fDiv lfoRate (fSampleRate rate)

/-- FILTER_F (44_filter_eq.md R195): the clamp is one-sided. -/
def filterFOf (cutoff : F32) (rate : Word) : F32 :=
  let f := fMul (fOfNat 2) (sinF (fDiv (fMul piF cutoff) (fSampleRate rate)))
  if fLt (fDecimal 199 100) f then fDecimal 199 100 else f

/-- FILTER_Q (44_filter_eq.md R195). -/
def filterQOf (resonance : F32) : F32 :=
  let q := fSub (fOfNat 1) resonance
  if fLt q (fDecimal 1 100) then fDecimal 1 100 else q

/-- The identity coefficients of a band with zero gain (44_filter_eq.md R202). -/
def identityCoef : BandCoef := { b0 := fOfNat 1, b1 := fOfNat 0, b2 := fOfNat 0, a1 := fOfNat 0, a2 := fOfNat 0 }

/-- The cookbook coefficients of a band (44_filter_eq.md R203), evaluated in the rule's order. -/
def cookbookCoef (centre : Nat) (gain : F32) (rate : Word) : BandCoef :=
  let a := pow10F (fDiv gain (fOfNat 40))
  let w0 := fDiv (fMul twoPiF (fOfNat centre)) (fSampleRate rate)
  let sn := sinF w0
  let cs := cosF w0
  let alpha := fDiv sn (fMul (fOfNat 2) (fDecimal 707 1000))
  let a0 := fAdd (fOfNat 1) (fDiv alpha a)
  { b0 := fDiv (fAdd (fOfNat 1) (fMul alpha a)) a0
    b1 := fDiv (fMul (fOfInt (-2)) cs) a0
    b2 := fDiv (fSub (fOfNat 1) (fMul alpha a)) a0
    a1 := fDiv (fMul (fOfInt (-2)) cs) a0
    a2 := fDiv (fSub (fOfNat 1) (fDiv alpha a)) a0 }

/-- EQ_COEF of a band (44_filter_eq.md R202 to R204): the zero-gain test is IEEE equality. -/
def bandCoefOf (centre : Nat) (gain : F32) (rate : Word) : BandCoef :=
  if fEq gain (fOfNat 0) then identityCoef else cookbookCoef centre gain rate

/-- EQ_COEF[0], the bass band at 120 Hz (44_filter_eq.md R199). -/
def bassCoefOf (gain : F32) (rate : Word) : BandCoef := bandCoefOf 120 gain rate

/-- EQ_COEF[1], the mid band at 1000 Hz (44_filter_eq.md R199). -/
def midCoefOf (gain : F32) (rate : Word) : BandCoef := bandCoefOf 1000 gain rate

/-- EQ_COEF[2], the treble band at 8000 Hz (44_filter_eq.md R199). -/
def trebleCoefOf (gain : F32) (rate : Word) : BandCoef := bandCoefOf 8000 gain rate

/-- REVERB_FB (45_reverb_delay.md R220). -/
def reverbFbOf (roomSize : F32) : F32 := fAdd (fDecimal 1 2) (fMul roomSize (fDecimal 45 100))

/-- The nominal reverb lengths (45_reverb_delay.md R221): combs 0 to 3, allpasses 0 and 1. -/
def nominalLengths : Vector Nat 6 := #v[1116, 1188, 1277, 1356, 556, 441]

/-- REVERB_LEN[0..5] (45_reverb_delay.md R221). 10_state.md R24 types them u32, and R221 says nothing of a SCALED quotient
above 2^32 - 1: as a DESIGN CHOICE the lengths and their sum neither wrap nor saturate here, so a reverb that large never
fits (log entry 26). -/
def reverbLengths (cfg : Config) (rate : Word) : Vector Nat 6 :=
  match cfg.reverbLenMode with
  | .fixed => nominalLengths
  | .scaled => nominalLengths.map fun n => max 1 (n * rate.toNat / cfg.reverbRefRate)

/-- DELAY_N (45_reverb_delay.md R232). -/
def delayNOf (rate : Word) : Word := BitVec.ofNat 32 (rate.toNat * maxDelayMs / 1000)

/-- DELAY_D (45_reverb_delay.md R233): product and quotient rounded to F, then floored and clamped to 1..DELAY_N. -/
def delayDOf (time : F32) (rate delayN : Word) : Word :=
  let d := fFloor (fDiv (fMul time (fSampleRate rate)) (fOfNat 1000))
  BitVec.ofInt 32 (min (max d 1) delayN.toNat)

/-- Every derived coefficient from the settings (10_state.md R24; 70_reset_and_hazards.md R305 step 3). -/
def deriveAll (x : Settings) : Derived :=
  { lfoInc := lfoIncOf x.lfoRate x.sampleRate
    filterF := filterFOf x.filterCutoff x.sampleRate
    filterQ := filterQOf x.filterResonance
    eqCoef := #v[bassCoefOf x.eqBassGain x.sampleRate, midCoefOf x.eqMidGain x.sampleRate,
      trebleCoefOf x.eqTrebleGain x.sampleRate]
    reverbFb := reverbFbOf x.reverbRoomSize
    delayN := delayNOf x.sampleRate
    delayD := delayDOf x.delayTime x.sampleRate (delayNOf x.sampleRate) }

/-- The settings at reset, clamped (70_reset_and_hazards.md R306), REVERB_ENABLE and DELAY_ENABLE still 0 (R305 step 2). -/
def initialSettings (cfg : Config) : Settings :=
  { sampleRate := clampSampleRate cfg cfg.init.sampleRate
    voiceCount := clampVoiceCount cfg cfg.init.voiceCount
    masterVolume := BitVec.ofNat 8 (min cfg.init.masterVolume 255)
    waveform := waveformOfCode cfg.init.waveform
    lfoEnable := cfg.init.lfoEnable != 0
    lfoVibrato := cfg.init.lfoVibrato != 0
    lfoTremolo := cfg.init.lfoTremolo != 0
    lfoRate := clampLfoRate cfg.init.lfoRate
    lfoDepth := clampLfoDepth cfg.init.lfoDepth
    filterEnable := cfg.init.filterEnable != 0
    filterType := filterTypeOfCode cfg.init.filterType
    filterCutoff := clampCutoff cfg.init.filterCutoff
    filterResonance := clampResonance cfg.init.filterResonance
    eqEnable := cfg.init.eqEnable != 0
    eqBassGain := clampGain cfg.init.eqBassGain
    eqMidGain := clampGain cfg.init.eqMidGain
    eqTrebleGain := clampGain cfg.init.eqTrebleGain
    reverbEnable := false
    reverbRoomSize := clampUnit cfg.init.reverbRoomSize
    reverbDamping := clampUnit cfg.init.reverbDamping
    reverbWet := clampUnit cfg.init.reverbWet
    delayEnable := false
    delayTime := clampDelayTime cfg.init.delayTime
    delayFeedback := clampFeedback cfg.init.delayFeedback
    delayMix := clampMix cfg.init.delayMix }

/-- No F field of INIT_SETTINGS is a NaN (00_scope.md R8). -/
def initNotNaN (x : InitSettings) : Bool :=
  !fIsNaN x.lfoRate && !fIsNaN x.lfoDepth && !fIsNaN x.filterCutoff && !fIsNaN x.filterResonance && !fIsNaN x.eqBassGain
    && !fIsNaN x.eqMidGain && !fIsNaN x.eqTrebleGain && !fIsNaN x.reverbRoomSize && !fIsNaN x.reverbDamping
    && !fIsNaN x.reverbWet && !fIsNaN x.delayTime && !fIsNaN x.delayFeedback && !fIsNaN x.delayMix

/-- The constraints of 00_scope.md R8 on a parameter set; a set that violates one describes no instance (R9). MEM_WORDS is
below 2^32 because its registers are u32 (10_state.md R36, R40; log entry 8). -/
def isInstance (cfg : Config) : Bool :=
  decide (1 ≤ cfg.maxVoices ∧ cfg.maxVoices ≤ 32)
    && decide (1 ≤ cfg.srMin ∧ cfg.srMin ≤ cfg.srMax ∧ cfg.srMax ≤ 2 ^ 24)
    && decide (1 ≤ cfg.attackSamples ∧ cfg.attackSamples ≤ 2 ^ 24)
    && decide (1 ≤ cfg.decaySamples ∧ cfg.decaySamples ≤ 2 ^ 24)
    && decide (1 ≤ cfg.releaseSamples ∧ cfg.releaseSamples ≤ 2 ^ 24)
    && decide (cfg.sustainLevel ≤ 255)
    && decide (1 ≤ cfg.reverbRefRate)
    && decide (cfg.memWords < 2 ^ 32)
    && initNotNaN cfg.init

end Sys2Proof.Machine
end

