-- ==== Sys2Proof/Machine/Operands.lean ====
section
/-! DEFINITION. The operand forms of the commands (30_encoding.md R97, R98, R102): the reserved fields of each form, the enable
bit, and the clamps of note, velocity and the codes. -/

namespace Sys2Proof.Machine

/-- A reserved field is nonzero in a command whose operand, if any, is the whole of field c: a and b are reserved
(30_encoding.md R102). -/
def reservedAB (a b : BitVec 8) : Bool := a != 0 || b != 0

/-- A reserved field is nonzero in NOTE_ON: only a is reserved (30_encoding.md R102). -/
def reservedA (a : BitVec 8) : Bool := a != 0

/-- A reserved field is nonzero in a command without operands: a, b and c are reserved (30_encoding.md R102). -/
def reservedABC (a b c : BitVec 8) : Bool := a != 0 || b != 0 || c != 0

/-- A reserved field is nonzero in an enable command: a, b and c[7:1] are reserved (30_encoding.md R102). -/
def reservedEnable (a b c : BitVec 8) : Bool := a != 0 || b != 0 || c.extractLsb' 1 7 != 0

/-- The reserved field z of a format-P command is nonzero (30_encoding.md R102). -/
def reservedZ (z : BitVec 24) : Bool := z != 0

/-- The enable value c[0] (30_encoding.md R97). -/
def enableBit (c : BitVec 8) : Bool := c.getLsbD 0

/-- A note or a velocity clamped to 127 (42_voice.md R165). -/
def clampMidi (x : BitVec 8) : BitVec 7 := BitVec.ofNat 7 (min x.toNat 127)

end Sys2Proof.Machine
end

