-- ==== Sys2Proof/Machine/Flags.lean ====
section
/-! DEFINITION. The STATUS flags (10_state.md R33): the codes of 60_exceptions.md R288, recording one (R287) and clearing all
(47_system.md R270); and the layouts of the registers that READ_REG assembles (10_state.md R33, R41 to R43). -/

namespace Sys2Proof.Machine

/-- The codes 1 to 7 of 60_exceptions.md R288. -/
inductive Code where
  /-- 1, E_ILLEGAL_OPCODE. -/
  | illegalOpcode
  /-- 2, E_RESERVED_FIELD. -/
  | reservedField
  /-- 3, E_NAN_OPERAND. -/
  | nanOperand
  /-- 4, E_BAD_REGISTER. -/
  | badRegister
  /-- 5, W_REVERB_ALLOC. -/
  | reverbAlloc
  /-- 6, W_DELAY_ALLOC. -/
  | delayAlloc
  /-- 7, E_HALTED. -/
  | halted
  deriving DecidableEq, Repr

/-- The number of a code (60_exceptions.md R288). -/
def codeNumber : Code → Nat
  | .illegalOpcode => 1
  | .reservedField => 2
  | .nanOperand => 3
  | .badRegister => 4
  | .reverbAlloc => 5
  | .delayAlloc => 6
  | .halted => 7

/-- STATUS at reset and after CLEAR_STATUS (10_state.md R33; 47_system.md R270). -/
def clearedStatus : Status := { sticky := 0, lastCode := 0 }

/-- Recording a code (60_exceptions.md R287): STATUS[k-1] <- 1 and LAST_CODE <- k, nothing else. -/
def recordCode (code : Code) (status : Status) : Status :=
  { sticky := status.sticky ||| BitVec.ofNat 7 (2 ^ (codeNumber code - 1)), lastCode := BitVec.ofNat 8 (codeNumber code) }

/-- STATUS as READ_REG 0x01 returns it (10_state.md R33): bits 6:0 sticky, 15:8 LAST_CODE, 16 HALTED, the others 0. -/
def statusWord (status : Status) (halted : Bool) : Word :=
  (0 : BitVec 15) ++ BitVec.ofBool halted ++ status.lastCode ++ (0 : BitVec 1) ++ status.sticky

/-- The code of a waveform (10_state.md R38). -/
def waveformCode : Waveform → BitVec 3
  | .sine => 0
  | .square => 1
  | .sawtooth => 2
  | .triangle => 3
  | .noise => 4

/-- The code of a filter type (10_state.md R39). -/
def filterTypeCode : FilterType → BitVec 2
  | .lowpass => 0
  | .highpass => 1
  | .bandpass => 2

/-- The code of an envelope state (10_state.md R26). -/
def envStateCode : EnvState → BitVec 3
  | .off => 0
  | .attack => 1
  | .decay => 2
  | .sustain => 3
  | .release => 4

/-- ENABLES (10_state.md R43). -/
def enablesWord (x : Settings) : Word :=
  (0 : BitVec 25) ++ BitVec.ofBool x.delayEnable ++ BitVec.ofBool x.reverbEnable ++ BitVec.ofBool x.eqEnable
    ++ BitVec.ofBool x.filterEnable ++ BitVec.ofBool x.lfoTremolo ++ BitVec.ofBool x.lfoVibrato
    ++ BitVec.ofBool x.lfoEnable

/-- VOICE_i (10_state.md R41). -/
def voiceWord (v : Voice) : Word :=
  (0 : BitVec 9) ++ waveformCode v.waveform ++ (0 : BitVec 1) ++ envStateCode v.env.state ++ BitVec.ofBool v.active
    ++ v.velocity ++ (0 : BitVec 1) ++ v.note

/-- The number whose bit i is V[i].active. -/
def activeBits : List Voice → Nat
  | [] => 0
  | v :: rest => (if v.active then 1 else 0) + 2 * activeBits rest

/-- VOICE_ACTIVE (10_state.md R40, 0x08): bit i is V[i].active for i < MAX_VOICES, the others 0. -/
def voiceActiveWord (maxVoices : Nat) (voices : List Voice) : Word := BitVec.ofNat 32 (activeBits (voices.take maxVoices))

/-- CONFIG (10_state.md R42). -/
def configWord (cfg : Config) : Word :=
  (0 : BitVec 14) ++ BitVec.ofBool (cfg.reverbLenMode == .scaled) ++ BitVec.ofBool (cfg.lfoCallsPerSample == .two)
    ++ BitVec.ofBool (cfg.waveformLatch == .live) ++ BitVec.ofBool cfg.lfsrReseedOnNoteOn
    ++ BitVec.ofBool (cfg.noiseReduce == .high16) ++ BitVec.ofBool (cfg.lfsrForm == .fibonacci)
    ++ BitVec.ofBool (cfg.envArith == .integer) ++ BitVec.ofBool (cfg.sineMode == .direct)
    ++ BitVec.ofBool (cfg.phaseRepr == .q16) ++ BitVec.ofBool (cfg.backend == .analogMono)
    ++ (0 : BitVec 2) ++ BitVec.ofNat 6 cfg.maxVoices

end Sys2Proof.Machine
end

