-- ==== Sys2Proof/Machine/Memory.lean ====
section
/-! DEFINITION. Buffer memory word by word (20_memory.md R70, R71): reading, writing and zero-filling a region of the list of
(word index, F) pairs, and the canonical form they keep. -/

namespace Sys2Proof.Machine

/-- The word at an index; a word that is not listed reads +0 (log entry 10). -/
def readCell : Memory → Nat → F32
  | [], _ => 0
  | (b, v) :: rest, a => if a = b then v else readCell rest a

/-- The memory with one word stored, in canonical form: storing +0 leaves no entry. -/
def writeCell : Memory → Nat → F32 → Memory
  | [], a, v => if v = 0 then [] else [(a, v)]
  | (b, w) :: rest, a, v =>
    if a < b then if v = 0 then (b, w) :: rest else (a, v) :: (b, w) :: rest
    else if a = b then if v = 0 then rest else (a, v) :: rest
    else (b, w) :: writeCell rest a v

/-- The memory with the words base .. base + length - 1 filled with +0 (20_memory.md R72). -/
def clearRegion (mem : Memory) (base length : Nat) : Memory :=
  mem.filter fun c => !(decide (base ≤ c.1) && decide (c.1 < base + length))

/-- The canonical form: word indices strictly rising and no entry equal to +0. -/
def Memory.wf : Memory → Bool
  | [] => true
  | [(_, v)] => v != 0
  | (a, v) :: (b, w) :: rest => v != 0 && decide (a < b) && Memory.wf ((b, w) :: rest)

end Sys2Proof.Machine
end

