-- ==== Sys2Proof/Machine/Buffers.lean ====
section
/-! DEFINITION. Allocation in buffer memory (20_memory.md R72 to R74; 45_reverb_delay.md R222 to R224, R234, R235) on the pool
and STATUS alone, so that the commands and the reset (70_reset_and_hazards.md R307) share it. The reverb's region is placed at
word 0 and the delay's at the top, which keeps them disjoint and each in one block (log entry 9). -/

namespace Sys2Proof.Machine

/-- The sum of the six lengths of a reverb (10_state.md R40, 0x44; 45_reverb_delay.md R222). -/
def reverbSize (rev : Reverb) : Nat := (rev.len.toList.map BitVec.toNat).sum

/-- The words of buffer memory at reset before any allocation (70_reset_and_hazards.md R305 step 1, R308). -/
def emptyPool (cfg : Config) : Pool :=
  { mem := []
    free := BitVec.ofNat 32 cfg.memWords
    rev := { allocated := false, base := 0, len := Vector.replicate 6 0, idx := Vector.replicate 6 0,
             fs := Vector.replicate 4 0 }
    dly := { allocated := false, base := 0, size := 0, wp := 0 } }

/-- The reverb's allocation if it fits in MEM_FREE (45_reverb_delay.md R222, R224): one zero-filled block of the six lengths,
indices and damping stores 0. -/
def tryReverb (cfg : Config) (rate : Word) (p : Pool) : Option Pool :=
  let lengths := reverbLengths cfg rate
  let need := lengths.toList.sum
  if need > p.free.toNat then none
  else some
    { p with
      mem := clearRegion p.mem 0 need
      free := p.free - BitVec.ofNat 32 need
      rev := { allocated := true, base := 0, len := lengths.map (BitVec.ofNat 32), idx := Vector.replicate 6 0,
               fs := Vector.replicate 4 0 } }

/-- The delay's allocation if it fits in MEM_FREE (45_reverb_delay.md R234): DELAY_N zero-filled words at the top of buffer
memory. -/
def tryDelay (cfg : Config) (delayN : Word) (p : Pool) : Option Pool :=
  if delayN.toNat > p.free.toNat then none
  else some
    { p with
      mem := clearRegion p.mem (cfg.memWords - delayN.toNat) delayN.toNat
      free := p.free - delayN
      dly := { allocated := true, base := BitVec.ofNat 32 (cfg.memWords - delayN.toNat), size := delayN, wp := 0 } }

/-- The reverb's region returned to buffer memory (45_reverb_delay.md R223). -/
def freeReverb (p : Pool) : Pool :=
  { p with free := p.free + BitVec.ofNat 32 (reverbSize p.rev), rev := { p.rev with allocated := false } }

/-- The delay's region returned to buffer memory (45_reverb_delay.md R235). -/
def freeDelay (p : Pool) : Pool :=
  { p with free := p.free + p.dly.size, dly := { p.dly with allocated := false, size := 0, wp := 0 } }

/-- What an allocation request leaves: the pool, STATUS, and whether the effect is enabled. -/
structure AllocResult where
  pool : Pool
  status : Status
  enabled : Bool
  deriving DecidableEq, Repr

/-- The end of an allocation request (45_reverb_delay.md R222, R234, R247): a failed one records its code, leaves the effect
disabled and changes nothing else. -/
def settleAlloc (code : Code) (attempt : Option Pool) (pool : Pool) (status : Status) : AllocResult :=
  match attempt with
  | some pool' => { pool := pool', status := status, enabled := true }
  | none => { pool := pool, status := recordCode code status, enabled := false }

/-- The reset-time reverb allocation (70_reset_and_hazards.md R307). -/
def resetReverb (cfg : Config) (x : Settings) : AllocResult :=
  if cfg.init.reverbEnable = 0 then { pool := emptyPool cfg, status := clearedStatus, enabled := false }
  else settleAlloc .reverbAlloc (tryReverb cfg x.sampleRate (emptyPool cfg)) (emptyPool cfg) clearedStatus

/-- The reset-time delay allocation, after the reverb's (70_reset_and_hazards.md R307). -/
def resetDelay (cfg : Config) (d : Derived) (r : AllocResult) : AllocResult :=
  if cfg.init.delayEnable = 0 then { pool := r.pool, status := r.status, enabled := false }
  else settleAlloc .delayAlloc (tryDelay cfg d.delayN r.pool) r.pool r.status

end Sys2Proof.Machine
end

