-- ==== Sys2Proof/Machine/State.lean ====
section
/-! DEFINITION. The whole state of the block (10_state.md R20), the ways a step can stop, and reset (70_reset_and_hazards.md
R305 to R308). -/

namespace Sys2Proof.Machine

/-- The state of CAE-SYNTH (10_state.md). `cfg` holds the parameters of the instance (R21: no command changes them); `port`
is the model's own field, the arrivals still to be taken (log entry 6). -/
structure State where
  cfg : Config
  settings : Settings
  derived : Derived
  voices : List Voice
  lfoPhase : F32
  svf : Svf
  eq : Vector EqHistory 3
  pool : Pool
  status : Status
  halted : Bool
  sampleCount : Word
  frames : List Frame
  responses : List Word
  pending : Pending
  port : List Arrival
  deriving DecidableEq, Repr

/-- Why the model stops with an internal error. -/
inductive Fault where
  /-- Raised by MemRead and MemWrite of buffer memory for an index outside the region or a region outside buffer memory
  (20_memory.md R71: "must fault, not wrap"; 93_implementation_defined.md section 2). No run of an instance reaches it. Safe:
  the model stops where the spec says no correct rule arrives. -/
  | indexOutsideRegion
  deriving DecidableEq, Repr

/-- Why the model rejects an input. -/
inductive Refusal where
  /-- Raised by `exec` for a command that has no meaning yet; no command is refused so in this model. Safe: it stops. -/
  | notModelled (mnemonic : String)
  /-- Raised by `step` for a parameter set that violates 00_scope.md R8: it describes no instance and the model refuses it
  (R9). Safe: no such machine exists. -/
  | notAnInstance
  deriving DecidableEq, Repr

/-- What a command leaves. -/
abbrev Result := Host.Outcome State Fault Refusal

/-- The empty history of one EQ band (10_state.md R30). -/
def silentBand : EqHistory := { x1 := 0, x2 := 0, y1 := 0, y2 := 0 }

/-- The machine right after reset, for any parameter set (70_reset_and_hazards.md R305): voices idle, streams empty, the
settings clamped from INIT_SETTINGS, the derived coefficients computed, then the reset-time allocations of R307. -/
def State.resetOf (cfg : Config) : State :=
  let settings := initialSettings cfg
  let derived := deriveAll settings
  let afterReverb := resetReverb cfg settings
  let afterDelay := resetDelay cfg derived afterReverb
  { cfg := cfg
    settings := { settings with reverbEnable := afterReverb.enabled, delayEnable := afterDelay.enabled }
    derived := derived
    voices := List.replicate cfg.maxVoices idleVoice
    lfoPhase := 0
    svf := { low := 0, band := 0 }
    eq := Vector.replicate 3 silentBand
    pool := afterDelay.pool
    status := afterDelay.status
    halted := false
    sampleCount := 0
    frames := []
    responses := []
    pending := noPending
    port := [] }

/-- The machine right after reset, for the test configuration TC (92_eei_decisions.md D45; log entry 5). -/
def State.reset : State := State.resetOf testConfig

end Sys2Proof.Machine
end

