-- ==== Sys2Proof/Machine/Ops.lean ====
section
/-! DEFINITION. The named operations over the state that the commands share: one update per field, recording a code and the
checks that stand before every command (60_exceptions.md R287, R290), the streams (00_scope.md R15), buffer-memory accesses
(20_memory.md R71), and allocating and freeing the effects' buffers (45_reverb_delay.md R222, R223, R234, R235, R246). The
block has no traps (60_exceptions.md R285): `reject` is what stands in the place of taking an exception, and nothing returns
from it. -/

namespace Sys2Proof.Machine

/-- The state with the settings (10_state.md R22) replaced. -/
def State.withSettings (s : State) (x : Settings) : State := { s with settings := x }

/-- The state with the derived coefficients (10_state.md R24) replaced. -/
def State.withDerived (s : State) (x : Derived) : State := { s with derived := x }

/-- The state with the voice bank (10_state.md R25) replaced. -/
def State.withVoices (s : State) (x : List Voice) : State := { s with voices := x }

/-- The state with lfo.phase (10_state.md R28) replaced. -/
def State.withLfoPhase (s : State) (x : F32) : State := { s with lfoPhase := x }

/-- The state with the filter state (10_state.md R29) replaced. -/
def State.withSvf (s : State) (x : Svf) : State := { s with svf := x }

/-- The state with the EQ histories (10_state.md R30) replaced. -/
def State.withEq (s : State) (x : Vector EqHistory 3) : State := { s with eq := x }

/-- The state with buffer memory, its regions and MEM_FREE (10_state.md R31, R32, R36) replaced. -/
def State.withPool (s : State) (x : Pool) : State := { s with pool := x }

/-- The state with STATUS (10_state.md R33) replaced. -/
def State.withStatus (s : State) (x : Status) : State := { s with status := x }

/-- The state with the halted state (10_state.md R34) replaced. -/
def State.withHalted (s : State) (x : Bool) : State := { s with halted := x }

/-- The state with SAMPLE_COUNT (10_state.md R35) replaced. -/
def State.withSampleCount (s : State) (x : Word) : State := { s with sampleCount := x }

/-- The state with the output stream (10_state.md R37) replaced. -/
def State.withFrames (s : State) (x : List Frame) : State := { s with frames := x }

/-- The state with the response stream (10_state.md R37) replaced. -/
def State.withResponses (s : State) (x : List Word) : State := { s with responses := x }

/-- The state with the pending first words (30_encoding.md R99) replaced. -/
def State.withPending (s : State) (x : Pending) : State := { s with pending := x }

/-- The state with the arrivals still to be taken replaced. -/
def State.withPort (s : State) (x : List Arrival) : State := { s with port := x }

/-- `raise Error(code)` and `record code` (00_scope.md R15; 60_exceptions.md R287): STATUS alone changes. -/
def State.record (s : State) (code : Code) : State := s.withStatus (recordCode code s.status)

/-- A command that fails a check: its code is recorded and it ends (60_exceptions.md R290). -/
def reject (code : Code) (s : State) : Result := .next (s.record code)

/-- The checks 2 to 4 of 60_exceptions.md R290 in their order, then the command's own rule. `exempt` says that the command
runs while halted (R291), `reserved` that a reserved field is nonzero, `nan` that the F operand is a NaN. Check 1, the
undefined opcode, comes before any command exists: see `undefinedCommand`. -/
def checked (exempt reserved nan : Bool) (body : State → Result) (s : State) : Result :=
  if s.halted && !exempt then reject .halted s
  else if reserved then reject .reservedField s
  else if nan then reject .nanOperand s
  else body s

/-- Check 1 of 60_exceptions.md R290: one word with an undefined opcode is consumed and records code 1 (30_encoding.md
R103). -/
def undefinedCommand (s : State) : Result := reject .illegalOpcode s

/-- `emitFrame` (00_scope.md R15): one frame appended to the output stream. -/
def State.emitFrame (s : State) (f : Frame) : State := s.withFrames (s.frames ++ [f])

/-- `respond` (00_scope.md R15): one word appended to the response stream. -/
def State.respond (s : State) (w : Word) : State := s.withResponses (s.responses ++ [w])

/-- Is word i of the region of `length` words at `base` a word of buffer memory (20_memory.md R71)? -/
def inRegion (memWords base length i : Nat) : Bool := decide (i < length ∧ base + i < memWords)

/-- MemRead (20_memory.md R71; 00_scope.md R15): an index outside the region faults. -/
def memRead (cfg : Config) (p : Pool) (base length i : Nat) : Except Fault F32 :=
  if inRegion cfg.memWords base length i then .ok (readCell p.mem (base + i)) else .error .indexOutsideRegion

/-- MemWrite (20_memory.md R71; 00_scope.md R15): an index outside the region faults. -/
def memWrite (cfg : Config) (p : Pool) (base length i : Nat) (v : F32) : Except Fault Pool :=
  if inRegion cfg.memWords base length i then .ok { p with mem := writeCell p.mem (base + i) v }
  else .error .indexOutsideRegion

/-- A voice forced off at once: active 0, envelope OFF with counter 0, the rest kept (42_voice.md R170). -/
def silenceVoice (v : Voice) : Voice := { v with active := false, env := { state := .off, counter := 0 } }

/-- REVERB_ENABLE written. -/
def State.withReverbEnable (s : State) (on : Bool) : State := s.withSettings { s.settings with reverbEnable := on }

/-- DELAY_ENABLE written. -/
def State.withDelayEnable (s : State) (on : Bool) : State := s.withSettings { s.settings with delayEnable := on }

/-- reverbAlloc() (45_reverb_delay.md R222): on failure REVERB_ENABLE is 0 and code 5 is recorded. -/
def reverbAlloc (s : State) : State :=
  let r := settleAlloc .reverbAlloc (tryReverb s.cfg s.settings.sampleRate s.pool) s.pool s.status
  ((s.withPool r.pool).withStatus r.status).withReverbEnable r.enabled

/-- reverbFree() (45_reverb_delay.md R223). -/
def reverbFree (s : State) : State := (s.withPool (freeReverb s.pool)).withReverbEnable false

/-- delayAlloc() (45_reverb_delay.md R234): on failure DELAY_ENABLE is 0 and code 6 is recorded. -/
def delayAlloc (s : State) : State :=
  let r := settleAlloc .delayAlloc (tryDelay s.cfg s.derived.delayN s.pool) s.pool s.status
  ((s.withPool r.pool).withStatus r.status).withDelayEnable r.enabled

/-- delayFree() (45_reverb_delay.md R235). -/
def delayFree (s : State) : State := (s.withPool (freeDelay s.pool)).withDelayEnable false

/-- effectsRealloc() (45_reverb_delay.md R246): both freed before either is allocated again, reverb first. -/
def effectsRealloc (s : State) : State :=
  let re := s.cfg.reverbLenMode == .scaled && s.pool.rev.allocated
  let de := s.pool.dly.allocated
  let s := if re then reverbFree s else s
  let s := if de then delayFree s else s
  let s := if re then reverbAlloc s else s
  if de then delayAlloc s else s

end Sys2Proof.Machine
end

