-- ==== Sys2Proof/Machine/FilterEq.lean ====
section
/-! DEFINITION. The state-variable filter and the 3-band EQ (44_filter_eq.md R195 to R208) and their commands (R209 to R216). -/

namespace Sys2Proof.Machine

/-- The three outputs of the filter for one input (44_filter_eq.md R196): the state after it and the high-pass value. -/
def svfUpdate (f q x : F32) (st : Svf) : Svf × F32 :=
  let low := fAdd st.low (fMul f st.band)
  let high := fSub (fSub x low) (fMul q st.band)
  let band := fAdd st.band (fMul f high)
  ({ low := low, band := band }, high)

/-- svfRun (44_filter_eq.md R196): all three outputs are computed, the type selects. 70_reset_and_hazards.md
R321 says that the filter's output depends on the current input; by R196, both tables of R198 and the LOWPASS frames of
95_test_vectors.md section 2.5 the LOWPASS output does not, and the model follows these (DESIGN CHOICE, log entry 27). -/
def svfRun (type : FilterType) (f q x : F32) (st : Svf) : F32 × Svf :=
  let r := svfUpdate f q x st
  match type with
  | .lowpass => (r.1.low, r.1)
  | .highpass => (r.2, r.1)
  | .bandpass => (r.1.band, r.1)

/-- biquadRun (44_filter_eq.md R200): direct form I with the rule's summation order. -/
def biquadRun (k : BandCoef) (x : F32) (h : EqHistory) : F32 × EqHistory :=
  let y := fSub (fSub (fAdd (fAdd (fMul k.b0 x) (fMul k.b1 h.x1)) (fMul k.b2 h.x2)) (fMul k.a1 h.y1)) (fMul k.a2 h.y2)
  (y, { x1 := x, x2 := h.x1, y1 := y, y2 := h.y1 })

/-- eqRun (44_filter_eq.md R201): bass, then mid, then treble. -/
def eqRun (coef : Vector BandCoef 3) (x : F32) (hs : Vector EqHistory 3) : F32 × Vector EqHistory 3 :=
  let bass := biquadRun coef[0] x hs[0]
  let mid := biquadRun coef[1] bass.1 hs[1]
  let treble := biquadRun coef[2] mid.1 hs[2]
  (treble.1, #v[bass.2, mid.2, treble.2])

/-- SET_FILTER_ENABLE's rule (44_filter_eq.md R209): a 0 to 1 edge clears the state. -/
def filterEnableRule (on : Bool) (s : State) : State :=
  let s := if on && !s.settings.filterEnable then s.withSvf { low := 0, band := 0 } else s
  s.withSettings { s.settings with filterEnable := on }

/-- SET_FILTER_ENABLE (44_filter_eq.md R209). -/
def execSetFilterEnable (a b c : BitVec 8) (s : State) : Result :=
  checked false (reservedEnable a b c) false (fun s => .next (filterEnableRule (enableBit c) s)) s

/-- SET_FILTER_TYPE (44_filter_eq.md R210). -/
def execSetFilterType (a b code : BitVec 8) (s : State) : Result :=
  checked false (reservedAB a b) false
    (fun s => .next (s.withSettings { s.settings with filterType := filterTypeOfCode code.toNat })) s

/-- FILTER_F and FILTER_Q recomputed from the settings (44_filter_eq.md R195). -/
def recomputeFilter (s : State) : State :=
  s.withDerived
    { s.derived with
      filterF := filterFOf s.settings.filterCutoff s.settings.sampleRate
      filterQ := filterQOf s.settings.filterResonance }

/-- SET_FILTER_CUTOFF (44_filter_eq.md R211). -/
def execSetFilterCutoff (z : BitVec 24) (cutoff : Word) (s : State) : Result :=
  checked false (reservedZ z) (fIsNaN cutoff)
    (fun s => .next (recomputeFilter (s.withSettings { s.settings with filterCutoff := clampCutoff cutoff }))) s

/-- SET_FILTER_RESONANCE (44_filter_eq.md R212). -/
def execSetFilterResonance (z : BitVec 24) (resonance : Word) (s : State) : Result :=
  checked false (reservedZ z) (fIsNaN resonance)
    (fun s => .next (recomputeFilter (s.withSettings { s.settings with filterResonance := clampResonance resonance }))) s

/-- SET_EQ_ENABLE's rule (44_filter_eq.md R213): a 0 to 1 edge clears the twelve histories. -/
def eqEnableRule (on : Bool) (s : State) : State :=
  let s := if on && !s.settings.eqEnable then s.withEq (Vector.replicate 3 silentBand) else s
  s.withSettings { s.settings with eqEnable := on }

/-- SET_EQ_ENABLE (44_filter_eq.md R213). -/
def execSetEqEnable (a b c : BitVec 8) (s : State) : Result :=
  checked false (reservedEnable a b c) false (fun s => .next (eqEnableRule (enableBit c) s)) s

/-- SET_EQ_BASS_GAIN's rule (44_filter_eq.md R214). -/
def bassGainRule (gain : F32) (s : State) : State :=
  let g := clampGain gain
  (s.withSettings { s.settings with eqBassGain := g }).withDerived
    { s.derived with eqCoef := s.derived.eqCoef.set 0 (bassCoefOf g s.settings.sampleRate) }

/-- SET_EQ_BASS_GAIN (44_filter_eq.md R214). -/
def execSetEqBassGain (z : BitVec 24) (gain : Word) (s : State) : Result :=
  checked false (reservedZ z) (fIsNaN gain) (fun s => .next (bassGainRule gain s)) s

/-- SET_EQ_MID_GAIN's rule (44_filter_eq.md R215). -/
def midGainRule (gain : F32) (s : State) : State :=
  let g := clampGain gain
  (s.withSettings { s.settings with eqMidGain := g }).withDerived
    { s.derived with eqCoef := s.derived.eqCoef.set 1 (midCoefOf g s.settings.sampleRate) }

/-- SET_EQ_MID_GAIN (44_filter_eq.md R215). -/
def execSetEqMidGain (z : BitVec 24) (gain : Word) (s : State) : Result :=
  checked false (reservedZ z) (fIsNaN gain) (fun s => .next (midGainRule gain s)) s

/-- SET_EQ_TREBLE_GAIN's rule (44_filter_eq.md R216). -/
def trebleGainRule (gain : F32) (s : State) : State :=
  let g := clampGain gain
  (s.withSettings { s.settings with eqTrebleGain := g }).withDerived
    { s.derived with eqCoef := s.derived.eqCoef.set 2 (trebleCoefOf g s.settings.sampleRate) }

/-- SET_EQ_TREBLE_GAIN (44_filter_eq.md R216). -/
def execSetEqTrebleGain (z : BitVec 24) (gain : Word) (s : State) : Result :=
  checked false (reservedZ z) (fIsNaN gain) (fun s => .next (trebleGainRule gain s)) s

end Sys2Proof.Machine
end

