-- ==== Sys2Proof/Machine/Envelope.lean ====
section
/-! DEFINITION. The envelope generator (41_envelope.md R125 to R137): its three operations on one voice's envelope. -/

namespace Sys2Proof.Machine

/-- envNoteOn (41_envelope.md R126): unconditionally ATTACK with counter 0. -/
def envNoteOn (_e : Env) : Env := { state := .attack, counter := 0 }

/-- envNoteOff (41_envelope.md R127): RELEASE with counter 0 unless already OFF. -/
def envNoteOff (e : Env) : Env := if e.state = .off then e else { state := .release, counter := 0 }

/-- envIsActive (41_envelope.md R135). -/
def envIsActive (e : Env) : Bool := e.state != .off

/-- The ATTACK value, REAL (41_envelope.md R129). -/
def attackReal (cfg : Config) (c : Word) : F32 :=
  let v := fDiv (fMul (fOfNat c.toNat) (fOfNat 255)) (fOfNat cfg.attackSamples)
  if fLt (fOfNat 255) v then fOfNat 255 else v

/-- The DECAY value, REAL (41_envelope.md R130). -/
def decayReal (cfg : Config) (c : Word) : F32 :=
  fSub (fOfNat 255) (fDiv (fMul (fOfNat (255 - cfg.sustainLevel)) (fOfNat c.toNat)) (fOfNat cfg.decaySamples))

/-- The RELEASE value of the ramp, REAL (41_envelope.md R132). -/
def releaseReal (cfg : Config) (c : Word) : F32 :=
  fSub (fOfNat cfg.sustainLevel)
    (fDiv (fMul (fOfNat cfg.sustainLevel) (fOfNat c.toNat)) (fOfNat cfg.releaseSamples))

/-- The ATTACK value, INTEGER (41_envelope.md R134): unsigned, 64-bit intermediates. -/
def attackInteger (cfg : Config) (c : Word) : F32 :=
  fOfNat (min 255 (c.toNat * 255 / cfg.attackSamples))

/-- a - b of unsigned 64-bit integers (41_envelope.md R134; log entry 13). -/
def subU64 (a b : Nat) : Nat := (BitVec.ofNat 64 a - BitVec.ofNat 64 b).toNat

/-- The DECAY value, INTEGER (41_envelope.md R134). -/
def decayInteger (cfg : Config) (c : Word) : F32 :=
  fOfNat (subU64 255 ((255 - cfg.sustainLevel) * c.toNat / cfg.decaySamples))

/-- The RELEASE value of the ramp, INTEGER (41_envelope.md R134). -/
def releaseInteger (cfg : Config) (c : Word) : F32 :=
  fOfNat (subU64 cfg.sustainLevel (cfg.sustainLevel * c.toNat / cfg.releaseSamples))

/-- The ATTACK value of the instance's arithmetic. -/
def attackValue (cfg : Config) (c : Word) : F32 :=
  match cfg.envArith with
  | .real => attackReal cfg c
  | .integer => attackInteger cfg c

/-- The DECAY value of the instance's arithmetic. -/
def decayValue (cfg : Config) (c : Word) : F32 :=
  match cfg.envArith with
  | .real => decayReal cfg c
  | .integer => decayInteger cfg c

/-- The RELEASE ramp value of the instance's arithmetic. -/
def releaseValue (cfg : Config) (c : Word) : F32 :=
  match cfg.envArith with
  | .real => releaseReal cfg c
  | .integer => releaseInteger cfg c

/-- envGet (41_envelope.md R128 to R134): the counter is incremented modulo 2^32, then the state's branch gives the value
and the transition. -/
def envGet (cfg : Config) (e : Env) : F32 × Env :=
  let c := e.counter + 1
  match e.state with
  | .attack =>
    (attackValue cfg c,
      if cfg.attackSamples ≤ c.toNat then { state := .decay, counter := 0 } else { state := .attack, counter := c })
  | .decay =>
    (decayValue cfg c,
      if cfg.decaySamples ≤ c.toNat then { state := .sustain, counter := 0 } else { state := .decay, counter := c })
  | .sustain => (fOfNat cfg.sustainLevel, { state := .sustain, counter := c })
  | .release =>
    if cfg.releaseSamples < c.toNat then (fOfNat 0, { state := .off, counter := 0 })
    else (releaseValue cfg c, { state := .release, counter := c })
  | .off => (fOfNat 0, { state := .off, counter := c })

end Sys2Proof.Machine
end

