-- ==== Sys2Proof/Machine/SineRom.lean ====
section
/-! DEFINITION. The sine ROM (20_memory.md R75): word i of 512 is the F nearest sin(2πi/512). The first quarter is written
out; R75's own symmetry (word (512 - i) = -(word i)) and sin(π - x) = sin x give the rest (log entry 15). -/

namespace Sys2Proof.Machine

/-- Sine ROM words 0 to 31 (20_memory.md R75). -/
def sineQuarterPart0 : List Nat := [
  0x00000000, 0x3C490E90, 0x3CC90AB0, 0x3D16C32C, 0x3D48FB30, 0x3D7B2B74, 0x3D96A905, 0x3DAFB680,
  0x3DC8BD36, 0x3DE1BC2E, 0x3DFAB273, 0x3E09CF86, 0x3E164083, 0x3E22ABB6, 0x3E2F10A2, 0x3E3B6ECF,
  0x3E47C5C2, 0x3E541501, 0x3E605C13, 0x3E6C9A7F, 0x3E78CFCC, 0x3E827DC0, 0x3E888E93, 0x3E8E9A22,
  0x3E94A031, 0x3E9AA086, 0x3EA09AE5, 0x3EA68F12, 0x3EAC7CD4, 0x3EB263EF, 0x3EB8442A, 0x3EBE1D4A]

/-- Sine ROM words 32 to 63 (20_memory.md R75). -/
def sineQuarterPart1 : List Nat := [
  0x3EC3EF15, 0x3EC9B953, 0x3ECF7BCA, 0x3ED53641, 0x3EDAE880, 0x3EE0924F, 0x3EE63375, 0x3EEBCBBB,
  0x3EF15AEA, 0x3EF6E0CB, 0x3EFC5D27, 0x3F00E7E4, 0x3F039C3D, 0x3F064B82, 0x3F08F59B, 0x3F0B9A6B,
  0x3F0E39DA, 0x3F10D3CD, 0x3F13682A, 0x3F15F6D9, 0x3F187FC0, 0x3F1B02C6, 0x3F1D7FD1, 0x3F1FF6CB,
  0x3F226799, 0x3F24D225, 0x3F273656, 0x3F299415, 0x3F2BEB4A, 0x3F2E3BDE, 0x3F3085BB, 0x3F32C8C9]

/-- Sine ROM words 64 to 95 (20_memory.md R75). -/
def sineQuarterPart2 : List Nat := [
  0x3F3504F3, 0x3F373A23, 0x3F396842, 0x3F3B8F3B, 0x3F3DAEF9, 0x3F3FC767, 0x3F41D870, 0x3F43E200,
  0x3F45E403, 0x3F47DE65, 0x3F49D112, 0x3F4BBBF8, 0x3F4D9F02, 0x3F4F7A1F, 0x3F514D3D, 0x3F531849,
  0x3F54DB31, 0x3F5695E5, 0x3F584853, 0x3F59F26A, 0x3F5B941A, 0x3F5D2D53, 0x3F5EBE05, 0x3F604621,
  0x3F61C598, 0x3F633C5A, 0x3F64AA59, 0x3F660F88, 0x3F676BD8, 0x3F68BF3C, 0x3F6A09A7, 0x3F6B4B0C]

/-- Sine ROM words 96 to 127 (20_memory.md R75). -/
def sineQuarterPart3 : List Nat := [
  0x3F6C835E, 0x3F6DB293, 0x3F6ED89E, 0x3F6FF573, 0x3F710908, 0x3F721352, 0x3F731447, 0x3F740BDD,
  0x3F74FA0B, 0x3F75DEC6, 0x3F76BA07, 0x3F778BC5, 0x3F7853F8, 0x3F791298, 0x3F79C79D, 0x3F7A7302,
  0x3F7B14BE, 0x3F7BACCD, 0x3F7C3B28, 0x3F7CBFC9, 0x3F7D3AAC, 0x3F7DABCC, 0x3F7E1324, 0x3F7E70B0,
  0x3F7EC46D, 0x3F7F0E58, 0x3F7F4E6D, 0x3F7F84AB, 0x3F7FB10F, 0x3F7FD397, 0x3F7FEC43, 0x3F7FFB11]

/-- Sine ROM words 128 to 128 (20_memory.md R75). -/
def sineQuarterPart4 : List Nat := [
  0x3F800000]

/-- Sine ROM words 0 to 128 (20_memory.md R75). -/
def sineQuarter : List Nat :=
  sineQuarterPart0 ++ sineQuarterPart1 ++ sineQuarterPart2 ++ sineQuarterPart3 ++ sineQuarterPart4

/-- The magnitude of sine ROM word i, for i up to 256: rising to word 128, falling after it. -/
def sineHalf (i : Nat) : Nat := sineQuarter.getD (if i ≤ 128 then i else 256 - i) 0

/-- Sine ROM word i, i in 0..511 (20_memory.md R75). Word 256 is +0. -/
def sineRom (i : Nat) : F32 :=
  if i ≤ 256 then BitVec.ofNat 32 (sineHalf i) else BitVec.ofNat 32 (2 ^ 31 + sineHalf (i - 256))

end Sys2Proof.Machine
end

