-- ==== Sys2Proof/Machine/Voice.lean ====
section
/-! DEFINITION. One voice (42_voice.md R140 to R164): note-on, the phase, the waveforms, the noise generator and one sample. -/

namespace Sys2Proof.Machine

/-- noteFreq (42_voice.md R141). -/
def noteFreq (n : BitVec 7) : F32 :=
  fMul (fOfNat 440) (pow2F (fDiv (fOfInt ((n.toNat : Int) - 69)) (fOfNat 12)))

/-- The increment in cycles per sample (42_voice.md R142). -/
def incFloat (n : BitVec 7) (rate : Word) : F32 := fDiv (noteFreq n) (fOfNat rate.toNat)

/-- The increment of a note (42_voice.md R142, R143). -/
def noteIncrement (cfg : Config) (n : BitVec 7) (rate : Word) : Word :=
  match cfg.phaseRepr with
  | .float => incFloat n rate
  | .q16 => fFloorU32 (fMul (incFloat n rate) (fOfNat 65536))

/-- voiceNoteOn (42_voice.md R144) with the WAVEFORM and SAMPLE_RATE in force. -/
def voiceNoteOn (cfg : Config) (waveform : Waveform) (rate : Word) (note velocity : BitVec 7) (v : Voice) : Voice :=
  { active := true
    note := note
    velocity := velocity
    waveform := waveform
    phase := 0
    inc := noteIncrement cfg note rate
    lfsr := if cfg.lfsrReseedOnNoteOn then lfsrSeed else v.lfsr
    env := envNoteOn v.env }

/-- The waveform phase p (42_voice.md R145, R146). -/
def wavePhase (cfg : Config) (phase : Word) : F32 :=
  match cfg.phaseRepr with
  | .float => phase
  | .q16 => fDiv (fOfNat phase.toNat) (fOfNat 65536)

/-- The modulated increment (42_voice.md R147, R148). -/
def modulatedIncrement (cfg : Config) (inc : Word) (vib : F32) : Word :=
  if fNe vib (fOfNat 0) then
    match cfg.phaseRepr with
    | .float => fMul inc (fAdd (fOfNat 1) vib)
    | .q16 => fFloorU32 (fMul (fOfNat inc.toNat) (fAdd (fOfNat 1) vib))
  else inc

/-- ph - F(floor(ph)) when ph >= 1 (42_voice.md R149; 43_lfo.md R181). -/
def wrapUnit (ph : F32) : F32 := if fLe (fOfNat 1) ph then fSub ph (fOfInt (fFloor ph)) else ph

/-- The advanced phase (42_voice.md R149). -/
def advancePhase (cfg : Config) (phase incMod : Word) : Word :=
  match cfg.phaseRepr with
  | .float => wrapUnit (fAdd phase incMod)
  | .q16 => BitVec.ofNat 32 ((phase.toNat + incMod.toNat) % 65536)

/-- The interpolated table sine at a phase in [0, 1) (42_voice.md R152). -/
def tableSine (p : F32) : F32 :=
  let pos := fMul p (fOfNat 512)
  let i := (fFloor pos).toNat
  let fr := fSub pos (fOfNat i)
  let a := sineRom i
  let b := sineRom ((i + 1) % 512)
  fAdd a (fMul (fSub b a) fr)

/-- SINE (42_voice.md R152, R153). R145 gives a phase in [0, 1); at any other phase the table's value is not stated and is
free (log entry 3). -/
def sineSample (cfg : Config) (p : F32) : F32 :=
  match cfg.sineMode with
  | .table =>
    if fLe (fOfNat 0) p && fLt p (fOfNat 1) then fMul (fOfNat fullScale) (tableSine p)
    else fMul (fOfNat fullScale) (Config.freeSine p)
  | .direct => fMul (fOfNat fullScale) (sinF (fMul twoPiF p))

/-- SQUARE (42_voice.md R154). -/
def squareSample (p : F32) : F32 := if fLt p (fDecimal 1 2) then fOfNat fullScale else fOfInt (-32767)

/-- SAWTOOTH (42_voice.md R155). -/
def sawtoothSample (p : F32) : F32 := fSub (fMul (fOfNat 65534) p) (fOfNat 32767)

/-- TRIANGLE (42_voice.md R156). -/
def triangleSample (p : F32) : F32 :=
  if fLt p (fDecimal 1 2) then fSub (fMul (fOfNat 131068) p) (fOfNat 32767)
  else fSub (fOfNat 98301) (fMul (fOfNat 131068) p)

/-- The Galois form of the LFSR (42_voice.md R158). -/
def galoisStep (st : Word) : Word := if st.getLsbD 0 then (st >>> 1) ^^^ 0x80400005 else st >>> 1

/-- The Fibonacci form of the LFSR (42_voice.md R158). -/
def fibonacciStep (st : Word) : Word :=
  let fb := BitVec.ofBool (((st.getLsbD 0 ^^ st.getLsbD 2) ^^ st.getLsbD 22) ^^ st.getLsbD 31)
  (st >>> 1) ||| (fb.setWidth 32 <<< 31)

/-- lfsrStep (42_voice.md R158). -/
def lfsrStep (cfg : Config) (st : Word) : Word :=
  match cfg.lfsrForm with
  | .galois => galoisStep st
  | .fibonacci => fibonacciStep st

/-- reduce16 (42_voice.md R159). -/
def reduce16 (cfg : Config) (st : Word) : BitVec 16 :=
  match cfg.noiseReduce with
  | .low16 => st.extractLsb' 0 16
  | .high16 => st.extractLsb' 16 16

/-- W(v, p) with the LFSR after it (42_voice.md R151, R157): only NOISE steps the LFSR. -/
def rawSample (cfg : Config) (waveform : Waveform) (lfsr : Word) (p : F32) : F32 × Word :=
  match waveform with
  | .sine => (sineSample cfg p, lfsr)
  | .square => (squareSample p, lfsr)
  | .sawtooth => (sawtoothSample p, lfsr)
  | .triangle => (triangleSample p, lfsr)
  | .noise => (fOfInt (reduce16 cfg (lfsrStep cfg lfsr)).toInt, lfsrStep cfg lfsr)

/-- The scaled sample x (42_voice.md R160). -/
def scaleSample (raw e : F32) (velocity : BitVec 7) (trem : F32) : F32 :=
  let x := fMul (fMul raw (fDiv e (fOfNat 255))) (fDiv (fOfNat velocity.toNat) (fOfNat 127))
  if fNe trem (fOfNat 1) then fMul x trem else x

/-- The waveform a sample uses (42_voice.md R150, R161). -/
def latchedWaveform (cfg : Config) (setting : Waveform) (v : Voice) : Waveform :=
  match cfg.waveformLatch with
  | .atNoteOn => v.waveform
  | .live => setting

/-- voiceGetSample (42_voice.md R150). -/
def voiceGetSample (cfg : Config) (setting : Waveform) (vib trem : F32) (v : Voice) : BitVec 16 × Voice :=
  if v.active then
    let e := envGet cfg v.env
    if e.2.state = .off then (0, { v with active := false, env := e.2 })
    else
      let waveform := latchedWaveform cfg setting v
      let raw := rawSample cfg waveform v.lfsr (wavePhase cfg v.phase)
      (toInt16 (scaleSample raw.1 e.1 v.velocity trem),
        { v with
          waveform := waveform
          phase := advancePhase cfg v.phase (modulatedIncrement cfg v.inc vib)
          lfsr := raw.2
          env := e.2 })
  else (0, v)

end Sys2Proof.Machine
end

