-- ==== Sys2Proof/Machine/Lfo.lean ====
section
/-! DEFINITION. The low-frequency oscillator (43_lfo.md R180 to R192) and its commands. -/

namespace Sys2Proof.Machine

/-- lfoGetSine (43_lfo.md R181): the value before the advance, and the advanced phase. -/
def lfoGetSine (phase inc : F32) : F32 × F32 := (sinF (fMul phase twoPiF), wrapUnit (fAdd phase inc))

/-- What one TICK takes from the LFO: the vibrato offset, the tremolo multiplier, and lfo.phase after it. -/
structure LfoSample where
  vib : F32
  trem : F32
  phase : F32
  deriving DecidableEq, Repr

/-- The vibrato offset of a sine value (43_lfo.md R183, R184). -/
def vibratoOf (depth value : F32) : F32 := fMul (fMul value (fDiv depth (fOfNat 100))) (fDecimal 2 100)

/-- The tremolo multiplier of a sine value (43_lfo.md R183, R185). -/
def tremoloOf (depth value : F32) : F32 :=
  fSub (fOfNat 1) (fMul (fDiv depth (fOfNat 100)) (fDiv (fSub (fOfNat 1) value) (fOfNat 2)))

/-- One call per sample, its value used for both (43_lfo.md R182). -/
def lfoOneCall (x : Settings) (inc phase : F32) : LfoSample :=
  let call := lfoGetSine phase inc
  { vib := if x.lfoVibrato then vibratoOf x.lfoDepth call.1 else fOfNat 0
    trem := if x.lfoTremolo then tremoloOf x.lfoDepth call.1 else fOfNat 1
    phase := call.2 }

/-- One call for the vibrato if it is on, then one for the tremolo if it is on (43_lfo.md R182). -/
def lfoTwoCalls (x : Settings) (inc phase : F32) : LfoSample :=
  let first := lfoGetSine phase inc
  let between := if x.lfoVibrato then first.2 else phase
  let second := lfoGetSine between inc
  { vib := if x.lfoVibrato then vibratoOf x.lfoDepth first.1 else fOfNat 0
    trem := if x.lfoTremolo then tremoloOf x.lfoDepth second.1 else fOfNat 1
    phase := if x.lfoTremolo then second.2 else between }

/-- lfoStep (43_lfo.md R183): (0, 1) and no call while LFO_ENABLE = 0. -/
def lfoStep (cfg : Config) (x : Settings) (inc phase : F32) : LfoSample :=
  if x.lfoEnable then
    match cfg.lfoCallsPerSample with
    | .one => lfoOneCall x inc phase
    | .two => lfoTwoCalls x inc phase
  else { vib := fOfNat 0, trem := fOfNat 1, phase := phase }

/-- SET_LFO_ENABLE (43_lfo.md R186): the phase is kept. -/
def execSetLfoEnable (a b c : BitVec 8) (s : State) : Result :=
  checked false (reservedEnable a b c) false
    (fun s => .next (s.withSettings { s.settings with lfoEnable := enableBit c })) s

/-- SET_LFO_VIBRATO (43_lfo.md R187). -/
def execSetLfoVibrato (a b c : BitVec 8) (s : State) : Result :=
  checked false (reservedEnable a b c) false
    (fun s => .next (s.withSettings { s.settings with lfoVibrato := enableBit c })) s

/-- SET_LFO_TREMOLO (43_lfo.md R188). -/
def execSetLfoTremolo (a b c : BitVec 8) (s : State) : Result :=
  checked false (reservedEnable a b c) false
    (fun s => .next (s.withSettings { s.settings with lfoTremolo := enableBit c })) s

/-- SET_LFO_RATE's rule (43_lfo.md R189). -/
def lfoRateRule (rate : F32) (s : State) : State :=
  let r := clampLfoRate rate
  (s.withSettings { s.settings with lfoRate := r }).withDerived
    { s.derived with lfoInc := lfoIncOf r s.settings.sampleRate }

/-- SET_LFO_RATE (43_lfo.md R189). -/
def execSetLfoRate (z : BitVec 24) (rate : Word) (s : State) : Result :=
  checked false (reservedZ z) (fIsNaN rate) (fun s => .next (lfoRateRule rate s)) s

/-- SET_LFO_DEPTH (43_lfo.md R190). -/
def execSetLfoDepth (z : BitVec 24) (depth : Word) (s : State) : Result :=
  checked false (reservedZ z) (fIsNaN depth)
    (fun s => .next (s.withSettings { s.settings with lfoDepth := clampLfoDepth depth })) s

end Sys2Proof.Machine
end

