-- ==== Sys2Proof/Machine/ReverbDelay.lean ====
section
/-! DEFINITION. The Schroeder reverb and the delay line (45_reverb_delay.md R220 to R237, R246, R247) and their commands (R238
to R245). -/

namespace Sys2Proof.Machine

/-- The word index of the start of buffer j of the reverb (20_memory.md R73): the base and the lengths before it. -/
def bufferBase (rev : Reverb) (j : Nat) : Nat :=
  rev.base.toNat + ((rev.len.toList.take j).map BitVec.toNat).sum

/-- buf_j[i] read (45_reverb_delay.md R225). -/
def readBuffer (cfg : Config) (p : Pool) (j : Fin 6) (i : Word) : Except Fault F32 :=
  memRead cfg p (bufferBase p.rev j) p.rev.len[j].toNat i.toNat

/-- buf_j[i] <- v (45_reverb_delay.md R225). -/
def writeBuffer (cfg : Config) (p : Pool) (j : Fin 6) (i : Word) (v : F32) : Except Fault Pool :=
  memWrite cfg p (bufferBase p.rev j) p.rev.len[j].toNat i.toNat v

/-- rev.idx[j] <- (i + 1) mod REVERB_LEN[j] (45_reverb_delay.md R225, R226). -/
def advanceIndex (rev : Reverb) (j : Fin 6) : Reverb :=
  { rev with idx := rev.idx.set j (BitVec.ofNat 32 ((rev.idx[j].toNat + 1) % rev.len[j].toNat)) }

/-- One comb (45_reverb_delay.md R225): its delayed value, and the pool after it. -/
def combRun (cfg : Config) (fb damp x : F32) (c : Fin 4) (p : Pool) : Except Fault (F32 × Pool) :=
  let j : Fin 6 := c.castLE (by decide)
  let i := p.rev.idx[j]
  match readBuffer cfg p j i with
  | .error e => .error e
  | .ok y =>
    let store := fAdd (fMul y (fSub (fOfNat 1) damp)) (fMul p.rev.fs[c] damp)
    match writeBuffer cfg p j i (fAdd x (fMul store fb)) with
    | .error e => .error e
    | .ok p' => .ok (y, { p' with rev := advanceIndex { p'.rev with fs := p'.rev.fs.set c store } j })

/-- The combs in turn (45_reverb_delay.md R225), accumulating their delayed values. -/
def combsRun (cfg : Config) (fb damp x : F32) : List (Fin 4) → F32 → Pool → Except Fault (F32 × Pool)
  | [], acc, p => .ok (acc, p)
  | c :: rest, acc, p =>
    match combRun cfg fb damp x c p with
    | .error e => .error e
    | .ok (y, p') => combsRun cfg fb damp x rest (fAdd acc y) p'

/-- One allpass (45_reverb_delay.md R226): its output for the input `v`. -/
def allpassRun (cfg : Config) (v : F32) (j : Fin 6) (p : Pool) : Except Fault (F32 × Pool) :=
  let i := p.rev.idx[j]
  match readBuffer cfg p j i with
  | .error e => .error e
  | .ok b =>
    match writeBuffer cfg p j i (fAdd v (fMul b (fDecimal 1 2))) with
    | .error e => .error e
    | .ok p' => .ok (fSub b v, { p' with rev := advanceIndex p'.rev j })

/-- The allpasses in series (45_reverb_delay.md R226). -/
def allpassesRun (cfg : Config) : List (Fin 6) → F32 → Pool → Except Fault (F32 × Pool)
  | [], v, p => .ok (v, p)
  | j :: rest, v, p =>
    match allpassRun cfg v j p with
    | .error e => .error e
    | .ok (o, p') => allpassesRun cfg rest o p'

/-- The blend of dry and wet (45_reverb_delay.md R227). -/
def reverbBlend (wet x v : F32) : F32 := fAdd (fMul x (fSub (fOfNat 1) wet)) (fMul v wet)

/-- reverbRun (45_reverb_delay.md R225 to R227). -/
def reverbRun (cfg : Config) (x : Settings) (fb input : F32) (p : Pool) : Except Fault (F32 × Pool) :=
  match combsRun cfg fb x.reverbDamping input [0, 1, 2, 3] (fOfNat 0) p with
  | .error e => .error e
  | .ok (acc, p1) =>
    match allpassesRun cfg [4, 5] (fDiv acc (fOfNat 4)) p1 with
    | .error e => .error e
    | .ok (v, p2) => .ok (reverbBlend x.reverbWet input v, p2)

/-- The index r of the delayed sample, (wp + N - D) mod N (45_reverb_delay.md R236). -/
def delayReadIndex (dly : Delay) (delayD : Word) : Nat :=
  (((dly.wp.toNat : Int) + dly.size.toNat - delayD.toNat) % dly.size.toNat).toNat

/-- The value injected at the write position (45_reverb_delay.md R236). -/
def delayInject (feedback input dl : F32) : F32 := fAdd input (fMul (fDiv feedback (fOfNat 100)) dl)

/-- The mix of dry and delayed (45_reverb_delay.md R236). -/
def delayBlend (mix input dl : F32) : F32 :=
  fAdd (fMul input (fDiv (fSub (fOfNat 100) mix) (fOfNat 100))) (fMul dl (fDiv mix (fOfNat 100)))

/-- delayRun (45_reverb_delay.md R236): the read comes before the write. -/
def delayRun (cfg : Config) (x : Settings) (delayD : Word) (input : F32) (p : Pool) : Except Fault (F32 × Pool) :=
  match memRead cfg p p.dly.base.toNat p.dly.size.toNat (delayReadIndex p.dly delayD) with
  | .error e => .error e
  | .ok dl =>
    match memWrite cfg p p.dly.base.toNat p.dly.size.toNat p.dly.wp.toNat (delayInject x.delayFeedback input dl) with
    | .error e => .error e
    | .ok p' =>
      .ok (delayBlend x.delayMix input dl,
        { p' with dly := { p'.dly with wp := BitVec.ofNat 32 ((p'.dly.wp.toNat + 1) % p'.dly.size.toNat) } })

/-- SET_REVERB_ENABLE's rule (45_reverb_delay.md R238): only a change allocates or frees. -/
def reverbEnableRule (on : Bool) (s : State) : State :=
  if on && !s.settings.reverbEnable then reverbAlloc s
  else if !on && s.settings.reverbEnable then reverbFree s
  else s

/-- SET_REVERB_ENABLE (45_reverb_delay.md R238). -/
def execSetReverbEnable (a b c : BitVec 8) (s : State) : Result :=
  checked false (reservedEnable a b c) false (fun s => .next (reverbEnableRule (enableBit c) s)) s

/-- SET_REVERB_ROOM_SIZE's rule (45_reverb_delay.md R239). -/
def roomSizeRule (roomSize : F32) (s : State) : State :=
  let r := clampUnit roomSize
  (s.withSettings { s.settings with reverbRoomSize := r }).withDerived { s.derived with reverbFb := reverbFbOf r }

/-- SET_REVERB_ROOM_SIZE (45_reverb_delay.md R239). -/
def execSetReverbRoomSize (z : BitVec 24) (roomSize : Word) (s : State) : Result :=
  checked false (reservedZ z) (fIsNaN roomSize) (fun s => .next (roomSizeRule roomSize s)) s

/-- SET_REVERB_DAMPING (45_reverb_delay.md R240). -/
def execSetReverbDamping (z : BitVec 24) (damping : Word) (s : State) : Result :=
  checked false (reservedZ z) (fIsNaN damping)
    (fun s => .next (s.withSettings { s.settings with reverbDamping := clampUnit damping })) s

/-- SET_REVERB_WET (45_reverb_delay.md R241). -/
def execSetReverbWet (z : BitVec 24) (wet : Word) (s : State) : Result :=
  checked false (reservedZ z) (fIsNaN wet)
    (fun s => .next (s.withSettings { s.settings with reverbWet := clampUnit wet })) s

/-- SET_DELAY_ENABLE's rule (45_reverb_delay.md R242): only a change allocates or frees. -/
def delayEnableRule (on : Bool) (s : State) : State :=
  if on && !s.settings.delayEnable then delayAlloc s
  else if !on && s.settings.delayEnable then delayFree s
  else s

/-- SET_DELAY_ENABLE (45_reverb_delay.md R242). -/
def execSetDelayEnable (a b c : BitVec 8) (s : State) : Result :=
  checked false (reservedEnable a b c) false (fun s => .next (delayEnableRule (enableBit c) s)) s

/-- SET_DELAY_TIME's rule (45_reverb_delay.md R243): the buffer is kept. -/
def delayTimeRule (time : F32) (s : State) : State :=
  let t := clampDelayTime time
  (s.withSettings { s.settings with delayTime := t }).withDerived
    { s.derived with delayD := delayDOf t s.settings.sampleRate s.derived.delayN }

/-- SET_DELAY_TIME (45_reverb_delay.md R243). -/
def execSetDelayTime (z : BitVec 24) (time : Word) (s : State) : Result :=
  checked false (reservedZ z) (fIsNaN time) (fun s => .next (delayTimeRule time s)) s

/-- SET_DELAY_FEEDBACK (45_reverb_delay.md R244). -/
def execSetDelayFeedback (z : BitVec 24) (feedback : Word) (s : State) : Result :=
  checked false (reservedZ z) (fIsNaN feedback)
    (fun s => .next (s.withSettings { s.settings with delayFeedback := clampFeedback feedback })) s

/-- SET_DELAY_MIX (45_reverb_delay.md R245). -/
def execSetDelayMix (z : BitVec 24) (mix : Word) (s : State) : Result :=
  checked false (reservedZ z) (fIsNaN mix)
    (fun s => .next (s.withSettings { s.settings with delayMix := clampMix mix })) s

end Sys2Proof.Machine
end

