-- ==== Sys2Proof/Machine/Mixer.lean ====
section
/-! DEFINITION. The mixer, the effects chain and the output stage (46_mixer.md R250 to R260): TICK and SET_MASTER_VOLUME; the
packing of a frame into a word (20_memory.md R77). -/

namespace Sys2Proof.Machine

/-- One voice in a TICK (46_mixer.md R250, R252): the voice after it, and its sample if it contributes, that is if it was
active before and is active after. -/
def voiceTick (cfg : Config) (setting : Waveform) (vib trem : F32) (v : Voice) : Voice × Option Int :=
  if v.active then
    let r := voiceGetSample cfg setting vib trem v
    (r.2, if r.2.active then some r.1.toInt else none)
  else (v, none)

/-- The voices below VOICE_COUNT in a TICK (46_mixer.md R250, R251), in increasing index order. -/
def tickedVoices (s : State) (lfo : LfoSample) : List (Voice × Option Int) :=
  (s.voices.take s.settings.voiceCount.toNat).map (voiceTick s.cfg s.settings.waveform lfo.vib lfo.trem)

/-- The average of the contributing samples (46_mixer.md R250, R254): no division for none or one. -/
def mixAverage (samples : List Int) : F32 :=
  if samples.length > 1 then fDiv (fOfInt samples.sum) (fOfNat samples.length) else fOfInt samples.sum

/-- Master volume (46_mixer.md R255): the factor is rounded before the product. -/
def scaleVolume (volume : BitVec 8) (m : F32) : F32 := fMul m (fDiv (fOfNat volume.toNat) (fOfNat 255))

/-- The filter's stage of the chain (46_mixer.md R253); disabled, it touches nothing. -/
def filterStage (m : F32) (s : State) : F32 × State :=
  if s.settings.filterEnable then
    let r := svfRun s.settings.filterType s.derived.filterF s.derived.filterQ m s.svf
    (r.1, s.withSvf r.2)
  else (m, s)

/-- The EQ's stage of the chain (46_mixer.md R253). -/
def eqStage (m : F32) (s : State) : F32 × State :=
  if s.settings.eqEnable then
    let r := eqRun s.derived.eqCoef m s.eq
    (r.1, s.withEq r.2)
  else (m, s)

/-- The reverb's stage of the chain (46_mixer.md R253). -/
def reverbStage (m : F32) (s : State) : Except Fault (F32 × State) :=
  if s.settings.reverbEnable then
    match reverbRun s.cfg s.settings s.derived.reverbFb m s.pool with
    | .error e => .error e
    | .ok (y, p) => .ok (y, s.withPool p)
  else .ok (m, s)

/-- The delay's stage of the chain (46_mixer.md R253). -/
def delayStage (m : F32) (s : State) : Except Fault (F32 × State) :=
  if s.settings.delayEnable then
    match delayRun s.cfg s.settings s.derived.delayD m s.pool with
    | .error e => .error e
    | .ok (y, p) => .ok (y, s.withPool p)
  else .ok (m, s)

/-- effectsChain (46_mixer.md R253): Filter, EQ, Reverb, Delay, in this order. -/
def effectsChain (m : F32) (s : State) : Except Fault (F32 × State) :=
  let filtered := filterStage m s
  let equalised := eqStage filtered.1 filtered.2
  match reverbStage equalised.1 equalised.2 with
  | .error e => .error e
  | .ok (m', s') => delayStage m' s'

/-- The frame of an output value (46_mixer.md R257). -/
def frameOf (cfg : Config) (out : BitVec 16) : Frame :=
  match cfg.backend with
  | .digitalStereo => .stereo out out
  | .analogMono => .mono out

/-- A frame packed into one word for a sink (20_memory.md R77). -/
def packFrame : Frame → Word
  | .stereo left right => right ++ left
  | .mono sample => (0 : BitVec 16) ++ sample

/-- The part of a TICK before the effects (46_mixer.md R250): the LFO and the voices advanced, and the mixed, scaled level. -/
def tickVoices (s : State) : F32 × State :=
  let lfo := lfoStep s.cfg s.settings s.derived.lfoInc s.lfoPhase
  let ticked := tickedVoices s lfo
  (scaleVolume s.settings.masterVolume (mixAverage (ticked.filterMap Prod.snd)),
    (s.withLfoPhase lfo.phase).withVoices (ticked.map Prod.fst ++ s.voices.drop s.settings.voiceCount.toNat))

/-- The end of a TICK (46_mixer.md R250): SAMPLE_COUNT and the frame. -/
def tickEmit (m : F32) (s : State) : State :=
  (s.withSampleCount (s.sampleCount + 1)).emitFrame (frameOf s.cfg (toInt16 m))

/-- TICK's rule (46_mixer.md R250). A fault is the internal error of 20_memory.md R71. -/
def tickRule (s : State) : Result :=
  let mixed := tickVoices s
  match effectsChain mixed.1 mixed.2 with
  | .error e => .fault e
  | .ok (m, s') => .next (tickEmit m s')

/-- TICK (46_mixer.md R250). -/
def execTick (a b c : BitVec 8) (s : State) : Result := checked false (reservedABC a b c) false tickRule s

/-- SET_MASTER_VOLUME (46_mixer.md R258): every u8 is legal. -/
def execSetMasterVolume (a b volume : BitVec 8) (s : State) : Result :=
  checked false (reservedAB a b) false
    (fun s => .next (s.withSettings { s.settings with masterVolume := volume })) s

end Sys2Proof.Machine
end

