-- ==== Sys2Proof/Machine/System.lean ====
section
/-! DEFINITION. The system commands (47_system.md R265 to R279): NOP, READ_REG, CLEAR_STATUS, SHUTDOWN, SET_SAMPLE_RATE and
SET_VOICE_COUNT; the register map that READ_REG reads (10_state.md R40). -/

namespace Sys2Proof.Machine

/-- NOP (47_system.md R265): allowed while halted (60_exceptions.md R291). -/
def execNop (a b c : BitVec 8) (s : State) : Result :=
  checked true (reservedABC a b c) false (fun s => .next s) s

/-- ID, the constant 0x43414531 (10_state.md R40). -/
def idWord : Word := 0x43414531

/-- The registers below 0x80 (10_state.md R40); none for an unassigned number (R45). -/
def lowRegister (s : State) : Nat → Option Word
  | 0x00 => some idWord
  | 0x01 => some (statusWord s.status s.halted)
  | 0x02 => some (configWord s.cfg)
  | 0x03 => some s.settings.sampleRate
  | 0x04 => some s.sampleCount
  | 0x05 => some (s.settings.masterVolume.setWidth 32)
  | 0x06 => some ((waveformCode s.settings.waveform).setWidth 32)
  | 0x07 => some (s.settings.voiceCount.setWidth 32)
  | 0x08 => some (voiceActiveWord s.cfg.maxVoices s.voices)
  | 0x09 => some (enablesWord s.settings)
  | 0x0A => some s.pool.free
  | 0x0B => some (BitVec.ofNat 32 s.cfg.attackSamples)
  | 0x0C => some (BitVec.ofNat 32 s.cfg.decaySamples)
  | 0x0D => some (BitVec.ofNat 32 s.cfg.releaseSamples)
  | 0x0E => some (BitVec.ofNat 32 s.cfg.sustainLevel)
  | 0x0F => some (BitVec.ofNat 32 s.cfg.memWords)
  | 0x10 => some s.settings.lfoRate
  | 0x11 => some s.settings.lfoDepth
  | 0x12 => some s.derived.lfoInc
  | 0x20 => some ((filterTypeCode s.settings.filterType).setWidth 32)
  | 0x21 => some s.settings.filterCutoff
  | 0x22 => some s.settings.filterResonance
  | 0x23 => some s.derived.filterF
  | 0x24 => some s.derived.filterQ
  | 0x30 => some s.settings.eqBassGain
  | 0x31 => some s.settings.eqMidGain
  | 0x32 => some s.settings.eqTrebleGain
  | 0x40 => some s.settings.reverbRoomSize
  | 0x41 => some s.settings.reverbDamping
  | 0x42 => some s.settings.reverbWet
  | 0x43 => some s.derived.reverbFb
  | 0x44 => some (if s.pool.rev.allocated then BitVec.ofNat 32 (reverbSize s.pool.rev) else 0)
  | 0x50 => some s.settings.delayTime
  | 0x51 => some s.settings.delayFeedback
  | 0x52 => some s.settings.delayMix
  | 0x53 => some s.derived.delayD
  | 0x54 => some (if s.pool.dly.allocated then s.pool.dly.size else 0)
  | _ => none

/-- The value of register n, none for an unassigned number (10_state.md R40, R41, R45). The bank holds MAX_VOICES records
(R25); a missing record, which no run has, reads as an idle voice (log entry 20). -/
def registerValue (s : State) (n : Nat) : Option Word :=
  if 0x80 ≤ n then
    if n < 0x80 + s.cfg.maxVoices then some (voiceWord (s.voices.getD (n - 0x80) idleVoice)) else none
  else lowRegister s n

/-- READ_REG's rule (47_system.md R266): one response in every case, code 4 for an unassigned register. -/
def readRegRule (number : BitVec 8) (s : State) : State :=
  match registerValue s number.toNat with
  | some w => s.respond w
  | none => (s.respond 0).record .badRegister

/-- READ_REG (47_system.md R266): allowed while halted (60_exceptions.md R291). -/
def execReadReg (a b number : BitVec 8) (s : State) : Result :=
  checked true (reservedAB a b) false (fun s => .next (readRegRule number s)) s

/-- CLEAR_STATUS (47_system.md R270): allowed while halted, HALTED stays. -/
def execClearStatus (a b c : BitVec 8) (s : State) : Result :=
  checked true (reservedABC a b c) false (fun s => .next (s.withStatus clearedStatus)) s

/-- SHUTDOWN's rule (47_system.md R272). -/
def shutdownRule (s : State) : State :=
  let s := s.withVoices (s.voices.map silenceVoice)
  let s := if s.settings.reverbEnable then reverbFree s else s
  let s := if s.settings.delayEnable then delayFree s else s
  s.withHalted true

/-- SHUTDOWN (47_system.md R272). -/
def execShutdown (a b c : BitVec 8) (s : State) : Result :=
  checked false (reservedABC a b c) false (fun s => .next (shutdownRule s)) s

/-- The coefficients that SET_SAMPLE_RATE recomputes (47_system.md R275); REVERB_FB does not depend on the rate. -/
def rateDerived (x : Settings) (d : Derived) : Derived :=
  { lfoInc := lfoIncOf x.lfoRate x.sampleRate
    filterF := filterFOf x.filterCutoff x.sampleRate
    filterQ := filterQOf x.filterResonance
    eqCoef := #v[bassCoefOf x.eqBassGain x.sampleRate, midCoefOf x.eqMidGain x.sampleRate,
      trebleCoefOf x.eqTrebleGain x.sampleRate]
    reverbFb := d.reverbFb
    delayN := delayNOf x.sampleRate
    delayD := delayDOf x.delayTime x.sampleRate (delayNOf x.sampleRate) }

/-- SET_SAMPLE_RATE's rule (47_system.md R275): buffers are reallocated only if the rate changed. -/
def sampleRateRule (rate : Word) (s : State) : State :=
  let r := clampSampleRate s.cfg rate.toNat
  let old := s.settings.sampleRate
  let x := { s.settings with sampleRate := r }
  let s := (s.withSettings x).withDerived (rateDerived x s.derived)
  if r = old then s else effectsRealloc s

/-- SET_SAMPLE_RATE (47_system.md R275): the data is a u32, no NaN check. -/
def execSetSampleRate (z : BitVec 24) (rate : Word) (s : State) : Result :=
  checked false (reservedZ z) false (fun s => .next (sampleRateRule rate s)) s

/-- SET_VOICE_COUNT's rule (47_system.md R278): voices at and above the new count stop at once. -/
def voiceCountRule (count : BitVec 8) (s : State) : State :=
  let n := clampVoiceCount s.cfg count.toNat
  (s.withVoices (s.voices.take n.toNat ++ (s.voices.drop n.toNat).map silenceVoice)).withSettings
    { s.settings with voiceCount := n }

/-- SET_VOICE_COUNT (47_system.md R278). -/
def execSetVoiceCount (a b count : BitVec 8) (s : State) : Result :=
  checked false (reservedAB a b) false (fun s => .next (voiceCountRule count s)) s

end Sys2Proof.Machine
end

