-- ==== Sys2Proof/Machine/VoiceBank.lean ====
section
/-! DEFINITION. The voice bank's commands (42_voice.md R165 to R173): NOTE_ON, NOTE_OFF, ALL_OFF, SET_WAVEFORM. -/

namespace Sys2Proof.Machine

/-- findFreeVoice (42_voice.md R166): the lowest inactive voice below VOICE_COUNT, else voice 0. -/
def findFreeVoice (count : Nat) (voices : List Voice) : Nat :=
  ((voices.take count).findIdx? fun v => !v.active).getD 0

/-- NOTE_ON's rule (42_voice.md R165). -/
def noteOnRule (velocity note : BitVec 8) (s : State) : State :=
  let k := findFreeVoice s.settings.voiceCount.toNat s.voices
  s.withVoices (s.voices.modify k
    (voiceNoteOn s.cfg s.settings.waveform s.settings.sampleRate (clampMidi note) (clampMidi velocity)))

/-- NOTE_ON (42_voice.md R165). -/
def execNoteOn (a velocity note : BitVec 8) (s : State) : Result :=
  checked false (reservedA a) false (fun s => .next (noteOnRule velocity note s)) s

/-- The release of the voices that hold a note (42_voice.md R168). -/
def releaseNote (n : BitVec 7) (v : Voice) : Voice :=
  if v.active && v.note == n then { v with env := envNoteOff v.env } else v

/-- NOTE_OFF's rule (42_voice.md R168): every sounding voice below VOICE_COUNT that holds the note. -/
def noteOffRule (note : BitVec 8) (s : State) : State :=
  let count := s.settings.voiceCount.toNat
  s.withVoices ((s.voices.take count).map (releaseNote (clampMidi note)) ++ s.voices.drop count)

/-- NOTE_OFF (42_voice.md R168). -/
def execNoteOff (a b note : BitVec 8) (s : State) : Result :=
  checked false (reservedAB a b) false (fun s => .next (noteOffRule note s)) s

/-- ALL_OFF (42_voice.md R170): every voice of the bank, not only those below VOICE_COUNT. -/
def execAllOff (a b c : BitVec 8) (s : State) : Result :=
  checked false (reservedABC a b c) false (fun s => .next (s.withVoices (s.voices.map silenceVoice))) s

/-- SET_WAVEFORM (42_voice.md R172). -/
def execSetWaveform (a b code : BitVec 8) (s : State) : Result :=
  checked false (reservedAB a b) false
    (fun s => .next (s.withSettings { s.settings with waveform := waveformOfCode code.toNat })) s

end Sys2Proof.Machine
end

