-- ==== Sys2Proof/Syntax.lean ====
section
/-! DEFINITION. The commands of CAE-SYNTH (30_encoding.md R101): one constructor per row of spec/opcode_table.json. A
constructor carries EVERY field of its format (R96), the reserved ones too, because a command with a nonzero reserved field
is still that command (R95) and its rule says what happens (R102, 60_exceptions.md R290); WellFormed.lean says which terms
have their reserved fields zero (log entry 17). -/

namespace Sys2Proof

/-- The command formats of 30_encoding.md R96: A is one word, P two. -/
inductive Format where
  | a
  | p
  deriving DecidableEq, Repr

/-- A command. Format A: the u8 fields a (23:16), b (15:8) and c (7:0) in this order; format P: the reserved field z
(23:0 of word 0) and the data word. A field that is an operand has the operand's name. -/
inductive Instr where
  /-- NOP, opcode 0x00, format A, no operand (47_system.md R265). -/
  | nop (a b c : BitVec 8)
  /-- TICK, opcode 0x01, format A, no operand (46_mixer.md R250). -/
  | tick (a b c : BitVec 8)
  /-- NOTE_ON, opcode 0x02, format A, b is the velocity, c the note (42_voice.md R165). -/
  | noteOn (a velocity note : BitVec 8)
  /-- NOTE_OFF, opcode 0x03, format A, operands by name (42_voice.md R168). -/
  | noteOff (a b note : BitVec 8)
  /-- ALL_OFF, opcode 0x04, format A, no operand (42_voice.md R170). -/
  | allOff (a b c : BitVec 8)
  /-- SET_MASTER_VOLUME, opcode 0x05, format A, operands by name (46_mixer.md R258). -/
  | setMasterVolume (a b volume : BitVec 8)
  /-- SET_WAVEFORM, opcode 0x06, format A, operands by name (42_voice.md R172). -/
  | setWaveform (a b code : BitVec 8)
  /-- SET_VOICE_COUNT, opcode 0x07, format A, operands by name (47_system.md R278). -/
  | setVoiceCount (a b count : BitVec 8)
  /-- SET_SAMPLE_RATE, opcode 0x08, format P (47_system.md R275). -/
  | setSampleRate (z : BitVec 24) (rate : Word)
  /-- SET_LFO_ENABLE, opcode 0x10, format A, c[0] is the enable bit (43_lfo.md R186). -/
  | setLfoEnable (a b c : BitVec 8)
  /-- SET_LFO_VIBRATO, opcode 0x11, format A, c[0] is the enable bit (43_lfo.md R187). -/
  | setLfoVibrato (a b c : BitVec 8)
  /-- SET_LFO_TREMOLO, opcode 0x12, format A, c[0] is the enable bit (43_lfo.md R188). -/
  | setLfoTremolo (a b c : BitVec 8)
  /-- SET_LFO_RATE, opcode 0x13, format P (43_lfo.md R189). -/
  | setLfoRate (z : BitVec 24) (rate : Word)
  /-- SET_LFO_DEPTH, opcode 0x14, format P (43_lfo.md R190). -/
  | setLfoDepth (z : BitVec 24) (depth : Word)
  /-- SET_FILTER_ENABLE, opcode 0x20, format A, c[0] is the enable bit (44_filter_eq.md R209). -/
  | setFilterEnable (a b c : BitVec 8)
  /-- SET_FILTER_TYPE, opcode 0x21, format A, operands by name (44_filter_eq.md R210). -/
  | setFilterType (a b code : BitVec 8)
  /-- SET_FILTER_CUTOFF, opcode 0x22, format P (44_filter_eq.md R211). -/
  | setFilterCutoff (z : BitVec 24) (cutoff : Word)
  /-- SET_FILTER_RESONANCE, opcode 0x23, format P (44_filter_eq.md R212). -/
  | setFilterResonance (z : BitVec 24) (resonance : Word)
  /-- SET_EQ_ENABLE, opcode 0x30, format A, c[0] is the enable bit (44_filter_eq.md R213). -/
  | setEqEnable (a b c : BitVec 8)
  /-- SET_EQ_BASS_GAIN, opcode 0x31, format P (44_filter_eq.md R214). -/
  | setEqBassGain (z : BitVec 24) (gain : Word)
  /-- SET_EQ_MID_GAIN, opcode 0x32, format P (44_filter_eq.md R215). -/
  | setEqMidGain (z : BitVec 24) (gain : Word)
  /-- SET_EQ_TREBLE_GAIN, opcode 0x33, format P (44_filter_eq.md R216). -/
  | setEqTrebleGain (z : BitVec 24) (gain : Word)
  /-- SET_REVERB_ENABLE, opcode 0x40, format A, c[0] is the enable bit (45_reverb_delay.md R238). -/
  | setReverbEnable (a b c : BitVec 8)
  /-- SET_REVERB_ROOM_SIZE, opcode 0x41, format P (45_reverb_delay.md R239). -/
  | setReverbRoomSize (z : BitVec 24) (roomSize : Word)
  /-- SET_REVERB_DAMPING, opcode 0x42, format P (45_reverb_delay.md R240). -/
  | setReverbDamping (z : BitVec 24) (damping : Word)
  /-- SET_REVERB_WET, opcode 0x43, format P (45_reverb_delay.md R241). -/
  | setReverbWet (z : BitVec 24) (wet : Word)
  /-- SET_DELAY_ENABLE, opcode 0x50, format A, c[0] is the enable bit (45_reverb_delay.md R242). -/
  | setDelayEnable (a b c : BitVec 8)
  /-- SET_DELAY_TIME, opcode 0x51, format P (45_reverb_delay.md R243). -/
  | setDelayTime (z : BitVec 24) (time : Word)
  /-- SET_DELAY_FEEDBACK, opcode 0x52, format P (45_reverb_delay.md R244). -/
  | setDelayFeedback (z : BitVec 24) (feedback : Word)
  /-- SET_DELAY_MIX, opcode 0x53, format P (45_reverb_delay.md R245). -/
  | setDelayMix (z : BitVec 24) (mix : Word)
  /-- READ_REG, opcode 0xF0, format A, operands by name (47_system.md R266). -/
  | readReg (a b number : BitVec 8)
  /-- CLEAR_STATUS, opcode 0xF1, format A, no operand (47_system.md R270). -/
  | clearStatus (a b c : BitVec 8)
  /-- SHUTDOWN, opcode 0xF2, format A, no operand (47_system.md R272). -/
  | shutdown (a b c : BitVec 8)
  deriving DecidableEq, Repr

/-- The format of a command (30_encoding.md R101). -/
def formatOf : Instr → Format
  | .nop _ _ _ => .a
  | .tick _ _ _ => .a
  | .noteOn _ _ _ => .a
  | .noteOff _ _ _ => .a
  | .allOff _ _ _ => .a
  | .setMasterVolume _ _ _ => .a
  | .setWaveform _ _ _ => .a
  | .setVoiceCount _ _ _ => .a
  | .setSampleRate _ _ => .p
  | .setLfoEnable _ _ _ => .a
  | .setLfoVibrato _ _ _ => .a
  | .setLfoTremolo _ _ _ => .a
  | .setLfoRate _ _ => .p
  | .setLfoDepth _ _ => .p
  | .setFilterEnable _ _ _ => .a
  | .setFilterType _ _ _ => .a
  | .setFilterCutoff _ _ => .p
  | .setFilterResonance _ _ => .p
  | .setEqEnable _ _ _ => .a
  | .setEqBassGain _ _ => .p
  | .setEqMidGain _ _ => .p
  | .setEqTrebleGain _ _ => .p
  | .setReverbEnable _ _ _ => .a
  | .setReverbRoomSize _ _ => .p
  | .setReverbDamping _ _ => .p
  | .setReverbWet _ _ => .p
  | .setDelayEnable _ _ _ => .a
  | .setDelayTime _ _ => .p
  | .setDelayFeedback _ _ => .p
  | .setDelayMix _ _ => .p
  | .readReg _ _ _ => .a
  | .clearStatus _ _ _ => .a
  | .shutdown _ _ _ => .a

end Sys2Proof
end

