-- ==== Sys2Proof/Machine/Dispatch.lean ====
section
/-! DEFINITION. One arm per command (30_encoding.md R101): a direct call of its meaning. -/

namespace Sys2Proof.Machine

open Sys2Proof

-- The meaning of every command, the checks 2 to 4 of 60_exceptions.md R290 included.
def exec (i : Instr) (s : State) : Host.Outcome State Fault Refusal :=
  match i with
  | .nop a b c => Sys2Proof.Machine.execNop a b c s
  | .tick a b c => Sys2Proof.Machine.execTick a b c s
  | .noteOn a velocity note => Sys2Proof.Machine.execNoteOn a velocity note s
  | .noteOff a b note => Sys2Proof.Machine.execNoteOff a b note s
  | .allOff a b c => Sys2Proof.Machine.execAllOff a b c s
  | .setMasterVolume a b volume => Sys2Proof.Machine.execSetMasterVolume a b volume s
  | .setWaveform a b code => Sys2Proof.Machine.execSetWaveform a b code s
  | .setVoiceCount a b count => Sys2Proof.Machine.execSetVoiceCount a b count s
  | .setSampleRate z rate => Sys2Proof.Machine.execSetSampleRate z rate s
  | .setLfoEnable a b c => Sys2Proof.Machine.execSetLfoEnable a b c s
  | .setLfoVibrato a b c => Sys2Proof.Machine.execSetLfoVibrato a b c s
  | .setLfoTremolo a b c => Sys2Proof.Machine.execSetLfoTremolo a b c s
  | .setLfoRate z rate => Sys2Proof.Machine.execSetLfoRate z rate s
  | .setLfoDepth z depth => Sys2Proof.Machine.execSetLfoDepth z depth s
  | .setFilterEnable a b c => Sys2Proof.Machine.execSetFilterEnable a b c s
  | .setFilterType a b code => Sys2Proof.Machine.execSetFilterType a b code s
  | .setFilterCutoff z cutoff => Sys2Proof.Machine.execSetFilterCutoff z cutoff s
  | .setFilterResonance z resonance => Sys2Proof.Machine.execSetFilterResonance z resonance s
  | .setEqEnable a b c => Sys2Proof.Machine.execSetEqEnable a b c s
  | .setEqBassGain z gain => Sys2Proof.Machine.execSetEqBassGain z gain s
  | .setEqMidGain z gain => Sys2Proof.Machine.execSetEqMidGain z gain s
  | .setEqTrebleGain z gain => Sys2Proof.Machine.execSetEqTrebleGain z gain s
  | .setReverbEnable a b c => Sys2Proof.Machine.execSetReverbEnable a b c s
  | .setReverbRoomSize z roomSize => Sys2Proof.Machine.execSetReverbRoomSize z roomSize s
  | .setReverbDamping z damping => Sys2Proof.Machine.execSetReverbDamping z damping s
  | .setReverbWet z wet => Sys2Proof.Machine.execSetReverbWet z wet s
  | .setDelayEnable a b c => Sys2Proof.Machine.execSetDelayEnable a b c s
  | .setDelayTime z time => Sys2Proof.Machine.execSetDelayTime z time s
  | .setDelayFeedback z feedback => Sys2Proof.Machine.execSetDelayFeedback z feedback s
  | .setDelayMix z mix => Sys2Proof.Machine.execSetDelayMix z mix s
  | .readReg a b number => Sys2Proof.Machine.execReadReg a b number s
  | .clearStatus a b c => Sys2Proof.Machine.execClearStatus a b c s
  | .shutdown a b c => Sys2Proof.Machine.execShutdown a b c s

end Sys2Proof.Machine
end

