-- ==== Sys2Proof/Decode.lean ====
section
/-! DEFINITION. The command decoder and encoder (30_encoding.md R95 to R103), and the byte order of a word on a byte-wide
medium (20_memory.md R76). The decoder is total on every list of words and refuses by name. -/

namespace Sys2Proof

/-- Why no command can be read from a list of words. -/
inductive DecodeError where
  /-- There is no word. -/
  | noWord
  /-- A format-P first word whose data word has not arrived (30_encoding.md R99). -/
  | dataPending (first : Word)
  /-- A one-word command with an opcode that is not in 30_encoding.md R101 (R103). -/
  | undefinedOpcode (op : BitVec 8)
  deriving DecidableEq, Repr

/-- op, bits 31:24 of a command word (30_encoding.md R95). -/
def opcodeOf (w : Word) : BitVec 8 := w.extractLsb' 24 8

/-- Field a, bits 23:16 of a format-A word (30_encoding.md R96). -/
def fieldA (w : Word) : BitVec 8 := w.extractLsb' 16 8

/-- Field b, bits 15:8 of a format-A word (30_encoding.md R96). -/
def fieldB (w : Word) : BitVec 8 := w.extractLsb' 8 8

/-- Field c, bits 7:0 of a format-A word (30_encoding.md R96). -/
def fieldC (w : Word) : BitVec 8 := w.extractLsb' 0 8

/-- Field z, bits 23:0 of the first word of a format-P command (30_encoding.md R96). -/
def fieldZ (w : Word) : BitVec 24 := w.extractLsb' 0 24

/-- The format-A rows of 30_encoding.md R101: the command that fields a, b and c make under an opcode. -/
def formatARow : Nat → Option (BitVec 8 → BitVec 8 → BitVec 8 → Instr)
  | 0x00 => some .nop
  | 0x01 => some .tick
  | 0x02 => some .noteOn
  | 0x03 => some .noteOff
  | 0x04 => some .allOff
  | 0x05 => some .setMasterVolume
  | 0x06 => some .setWaveform
  | 0x07 => some .setVoiceCount
  | 0x10 => some .setLfoEnable
  | 0x11 => some .setLfoVibrato
  | 0x12 => some .setLfoTremolo
  | 0x20 => some .setFilterEnable
  | 0x21 => some .setFilterType
  | 0x30 => some .setEqEnable
  | 0x40 => some .setReverbEnable
  | 0x50 => some .setDelayEnable
  | 0xF0 => some .readReg
  | 0xF1 => some .clearStatus
  | 0xF2 => some .shutdown
  | _ => none

/-- The format-P rows of 30_encoding.md R101: the command that field z and the data word make under an opcode. -/
def formatPRow : Nat → Option (BitVec 24 → Word → Instr)
  | 0x08 => some .setSampleRate
  | 0x13 => some .setLfoRate
  | 0x14 => some .setLfoDepth
  | 0x22 => some .setFilterCutoff
  | 0x23 => some .setFilterResonance
  | 0x31 => some .setEqBassGain
  | 0x32 => some .setEqMidGain
  | 0x33 => some .setEqTrebleGain
  | 0x41 => some .setReverbRoomSize
  | 0x42 => some .setReverbDamping
  | 0x43 => some .setReverbWet
  | 0x51 => some .setDelayTime
  | 0x52 => some .setDelayFeedback
  | 0x53 => some .setDelayMix
  | _ => none

/-- 30_encoding.md R99: the word begins a two-word command. -/
def beginsFormatP (w : Word) : Bool := (formatPRow (opcodeOf w).toNat).isSome

/-- 30_encoding.md R103: the opcode of the word is in no row of R101. -/
def opcodeUndefined (w : Word) : Bool :=
  (formatPRow (opcodeOf w).toNat).isNone && (formatARow (opcodeOf w).toNat).isNone

/-- Read one command from the front of a stream of words, and the words after it (30_encoding.md R99, R100): the first
word alone decides the length. -/
def decode : List Word → Except DecodeError (Instr × List Word)
  | [] => .error .noWord
  | w :: rest =>
    match formatPRow (opcodeOf w).toNat with
    | some command =>
      match rest with
      | [] => .error (.dataPending w)
      | data :: rest' => .ok (command (fieldZ w) data, rest')
    | none =>
      match formatARow (opcodeOf w).toNat with
      | some command => .ok (command (fieldA w) (fieldB w) (fieldC w), rest)
      | none => .error (.undefinedOpcode (opcodeOf w))

/-- A format-A word (30_encoding.md R96). -/
def wordA (op a b c : BitVec 8) : Word := op ++ a ++ b ++ c

/-- The first word of a format-P command (30_encoding.md R96). -/
def wordP (op : BitVec 8) (z : BitVec 24) : Word := op ++ z

/-- The words of a command (30_encoding.md R96, R101). -/
def encode : Instr → List Word
  | .nop a b c => [wordA 0x00 a b c]
  | .tick a b c => [wordA 0x01 a b c]
  | .noteOn a velocity note => [wordA 0x02 a velocity note]
  | .noteOff a b note => [wordA 0x03 a b note]
  | .allOff a b c => [wordA 0x04 a b c]
  | .setMasterVolume a b volume => [wordA 0x05 a b volume]
  | .setWaveform a b code => [wordA 0x06 a b code]
  | .setVoiceCount a b count => [wordA 0x07 a b count]
  | .setSampleRate z rate => [wordP 0x08 z, rate]
  | .setLfoEnable a b c => [wordA 0x10 a b c]
  | .setLfoVibrato a b c => [wordA 0x11 a b c]
  | .setLfoTremolo a b c => [wordA 0x12 a b c]
  | .setLfoRate z rate => [wordP 0x13 z, rate]
  | .setLfoDepth z depth => [wordP 0x14 z, depth]
  | .setFilterEnable a b c => [wordA 0x20 a b c]
  | .setFilterType a b code => [wordA 0x21 a b code]
  | .setFilterCutoff z cutoff => [wordP 0x22 z, cutoff]
  | .setFilterResonance z resonance => [wordP 0x23 z, resonance]
  | .setEqEnable a b c => [wordA 0x30 a b c]
  | .setEqBassGain z gain => [wordP 0x31 z, gain]
  | .setEqMidGain z gain => [wordP 0x32 z, gain]
  | .setEqTrebleGain z gain => [wordP 0x33 z, gain]
  | .setReverbEnable a b c => [wordA 0x40 a b c]
  | .setReverbRoomSize z roomSize => [wordP 0x41 z, roomSize]
  | .setReverbDamping z damping => [wordP 0x42 z, damping]
  | .setReverbWet z wet => [wordP 0x43 z, wet]
  | .setDelayEnable a b c => [wordA 0x50 a b c]
  | .setDelayTime z time => [wordP 0x51 z, time]
  | .setDelayFeedback z feedback => [wordP 0x52 z, feedback]
  | .setDelayMix z mix => [wordP 0x53 z, mix]
  | .readReg a b number => [wordA 0xF0 a b number]
  | .clearStatus a b c => [wordA 0xF1 a b c]
  | .shutdown a b c => [wordA 0xF2 a b c]

/-- 20_memory.md R76: the bytes of a word on a byte-wide medium, least significant first. -/
def bytesOfWord (w : Word) : List Byte :=
  [w.extractLsb' 0 8, w.extractLsb' 8 8, w.extractLsb' 16 8, w.extractLsb' 24 8]

/-- 20_memory.md R76: the word of four bytes in the order of a byte-wide medium. -/
def wordOfBytes (b0 b1 b2 b3 : Byte) : Word := b3 ++ b2 ++ b1 ++ b0

/-- The words that a byte-wide medium carries, whole words only (20_memory.md R76). -/
def wordsOfBytes : List Byte → List Word
  | b0 :: b1 :: b2 :: b3 :: rest => wordOfBytes b0 b1 b2 b3 :: wordsOfBytes rest
  | _ => []

/-- The words of an opcode-table row's bits: word 0 in bits 31:0, the data word (zero where nbits does not reach it) in
bits 63:32. -/
def tableWords (nbits w : Nat) : Word × Word :=
  let bits := w % 2 ^ nbits
  (BitVec.ofNat 32 bits, BitVec.ofNat 32 (bits / 2 ^ 32))

/-- The bytes of an opcode-table row as a byte-wide medium carries them (20_memory.md R76), the data word after word 0. -/
def tableBytes (nbits w : Nat) : List Byte :=
  bytesOfWord (tableWords nbits w).1 ++ bytesOfWord (tableWords nbits w).2

/-- The instruction the decoder reads from the bits of an opcode-table row, laid out byte by byte. -/
def decodeTableWord (nbits w : Nat) : Option Instr :=
  match decode (wordsOfBytes (tableBytes nbits w)) with
  | .ok (i, _) => some i
  | .error _ => none

end Sys2Proof
end

