-- ==== Sys2Proof/Machine/Port.lean ====
section
/-! DEFINITION. Taking one arrival from the command port (30_encoding.md R99; 20_memory.md R82 to R84): a first word of a
format-P command becomes its agent's pending word, a data word completes it, every other word is a command of its own. -/

namespace Sys2Proof.Machine

/-- The pending first word of an agent (30_encoding.md R99). -/
def pendingOf (p : Pending) : Agent → Option Word
  | .host => p.host
  | .sampleClock => p.clock

/-- An agent's pending first word written; the other agent's is kept. -/
def setPending (p : Pending) (agent : Agent) (w : Option Word) : Pending :=
  match agent with
  | .host => { p with host := w }
  | .sampleClock => { p with clock := w }

/-- What the word at the front of the port is (30_encoding.md R100). -/
inductive Fetched where
  /-- The first word of a format-P command: it becomes pending and nothing executes. -/
  | first
  /-- A whole command of one or two words. -/
  | command (i : Instr)
  /-- A one-word command with an undefined opcode. -/
  | undefined
  deriving DecidableEq, Repr

/-- What the words an agent has sent are: its pending first word, if it has one, then the word that arrives (30_encoding.md
R99, R100). -/
def fetchWords (pending : Option Word) (w : Word) : Fetched :=
  match decode (pending.toList ++ [w]) with
  | .ok (i, _) => .command i
  | .error (.dataPending _) => .first
  | .error _ => .undefined

/-- The pending words after an agent's word (30_encoding.md R99): a first word waits, anything else leaves none. -/
def pendingAfter (p : Pending) (agent : Agent) (w : Word) : Pending :=
  match fetchWords (pendingOf p agent) w with
  | .first => setPending p agent (some w)
  | .command _ => setPending p agent none
  | .undefined => setPending p agent none

/-- The state after an agent's word has been taken from the front of the port, before the command executes. -/
def takeWord (agent : Agent) (w : Word) (rest : List Arrival) (s : State) : State :=
  (s.withPort rest).withPending (pendingAfter s.pending agent w)

/-- The state after reset, as an arrival (70_reset_and_hazards.md R305, R309): everything at its reset value, the later
arrivals still to come (log entry 12). -/
def resetArrival (rest : List Arrival) (s : State) : State := (State.resetOf s.cfg).withPort rest

/-- The state with a command at the front of the host's stream: for a format-A word the word itself; for a format-P word
its first word already received and its data word next (log entry 6). -/
def placeCommand (w0 data : Word) (s : State) : State :=
  if beginsFormatP w0 then
    (s.withPending { s.pending with host := some w0 }).withPort (.word .host data :: s.port)
  else (s.withPending { s.pending with host := none }).withPort (.word .host w0 :: s.port)

end Sys2Proof.Machine
end

