-- ==== Sys2Proof/Machine/Step.lean ====
section
/-! DEFINITION. One step of the machine (00_scope.md R16; 70_reset_and_hazards.md R320): one arrival is taken from the port
and, if it completes a command, that command executes. -/

namespace Sys2Proof.Machine

/-- One step. A parameter set that is no instance is refused (00_scope.md R9). An empty port is the end of a run (R7): the
block does nothing on its own. -/
def step (s : State) : Host.Outcome State Fault Refusal :=
  if isInstance s.cfg then
    match s.port with
    | [] => .next s
    | .reset :: rest => .next (resetArrival rest s)
    | .word agent w :: rest =>
      match fetchWords (pendingOf s.pending agent) w with
      | .first => .next (takeWord agent w rest s)
      | .command i => exec i (takeWord agent w rest s)
      | .undefined => undefinedCommand (takeWord agent w rest s)
  else .refused .notAnInstance

/-- The state whose very next step runs the instruction of an opcode-table row (log entry 6). -/
def State.withFetchWord (s : State) (nbits w : Nat) : State :=
  placeCommand (tableWords nbits w).1 (tableWords nbits w).2 s

end Sys2Proof.Machine
end

