-- ==== Sys2Proof/Machine/Assembler.lean ====
section
/-! DEFINITION. The assembly syntax (30_encoding.md R105) and the pseudo-instructions (R106): one line of text to the commands
it stands for. The block never sees this text; nothing of the machine depends on it (log entry 23). -/

namespace Sys2Proof.Machine

/-- The commands of a pseudo-instruction (30_encoding.md R106). -/
inductive Pseudo where
  | ticks (n : Nat)
  | fxBypass
  | lfoOff
  | note (n v : BitVec 8) (k : Nat)
  deriving DecidableEq, Repr

/-- n copies of TICK (30_encoding.md R106). -/
def ticksOf (n : Nat) : List Instr := List.replicate n (.tick 0 0 0)

/-- The expansion of a pseudo-instruction (30_encoding.md R106). -/
def expandPseudo : Pseudo → List Instr
  | .ticks n => ticksOf n
  | .fxBypass => [.setFilterEnable 0 0 0, .setEqEnable 0 0 0, .setReverbEnable 0 0 0, .setDelayEnable 0 0 0]
  | .lfoOff => [.setLfoEnable 0 0 0]
  | .note n v k => .noteOn 0 v n :: ticksOf k ++ [.noteOff 0 0 n]

/-- White space inside a line. -/
def isBlank (c : Char) : Bool := c == ' ' || c == '\t'

/-- A piece of text without the white space around it. -/
def trimBlank (s : List Char) : List Char := ((s.dropWhile isBlank).reverse.dropWhile isBlank).reverse

/-- The pieces of a text between commas. -/
def splitCommas : List Char → List (List Char)
  | [] => [[]]
  | c :: rest =>
    if c == ',' then [] :: splitCommas rest
    else match splitCommas rest with
      | [] => [[c]]
      | piece :: pieces => (c :: piece) :: pieces

/-- The value of a digit in a base up to 16. -/
def digitValue (base : Nat) (c : Char) : Option Nat :=
  let v := if '0' ≤ c ∧ c ≤ '9' then some (c.toNat - 48)
    else if 'a' ≤ c ∧ c ≤ 'f' then some (c.toNat - 87)
    else if 'A' ≤ c ∧ c ≤ 'F' then some (c.toNat - 55)
    else none
  v.bind fun d => if d < base then some d else none

/-- The number that a text of digits writes after the digits already read. -/
def digitsFrom (base : Nat) : Nat → List Char → Option Nat
  | acc, [] => some acc
  | acc, c :: rest =>
    match digitValue base c with
    | some d => digitsFrom base (acc * base + d) rest
    | none => none

/-- The number of a nonempty text of digits. -/
def parseDigits (base : Nat) (s : List Char) : Option Nat := if s.isEmpty then none else digitsFrom base 0 s

/-- An unsigned decimal or 0x hexadecimal integer (30_encoding.md R105). -/
def parseInteger : List Char → Option Nat
  | '0' :: 'x' :: rest => parseDigits 16 rest
  | s => parseDigits 10 s

/-- An integer that a u8 field holds. -/
def parseU8 (s : List Char) : Option (BitVec 8) :=
  (parseInteger s).bind fun n => if n < 256 then some (BitVec.ofNat 8 n) else none

/-- An enable operand, 0 or 1 (30_encoding.md R105). -/
def parseEnable (s : List Char) : Option (BitVec 8) :=
  (parseInteger s).bind fun n => if n < 2 then some (BitVec.ofNat 8 n) else none

/-- A code by its name (10_state.md R38, R39), or as an integer. -/
def parseName (names : List (String × Nat)) (s : List Char) : Option (BitVec 8) :=
  match names.find? fun p => p.1 == String.ofList s with
  | some (_, n) => some (BitVec.ofNat 8 n)
  | none => parseU8 s

/-- The names of the waveform codes (10_state.md R38). -/
def waveformNames : List (String × Nat) :=
  [("SINE", 0), ("SQUARE", 1), ("SAWTOOTH", 2), ("TRIANGLE", 3), ("NOISE", 4)]

/-- The names of the filter types (10_state.md R39). -/
def filterTypeNames : List (String × Nat) := [("LOWPASS", 0), ("HIGHPASS", 1), ("BANDPASS", 2)]

/-- The names of the registers below 0x80 (10_state.md R40). -/
def registerNames : List (String × Nat) :=
  [("ID", 0x00), ("STATUS", 0x01), ("CONFIG", 0x02), ("SAMPLE_RATE", 0x03),
   ("SAMPLE_COUNT", 0x04), ("MASTER_VOLUME", 0x05), ("WAVEFORM", 0x06), ("VOICE_COUNT", 0x07),
   ("VOICE_ACTIVE", 0x08), ("ENABLES", 0x09), ("MEM_FREE", 0x0A), ("ATTACK_SAMPLES", 0x0B),
   ("DECAY_SAMPLES", 0x0C), ("RELEASE_SAMPLES", 0x0D), ("SUSTAIN_LEVEL", 0x0E), ("MEM_WORDS", 0x0F),
   ("LFO_RATE", 0x10), ("LFO_DEPTH", 0x11), ("LFO_INC", 0x12), ("FILTER_TYPE", 0x20),
   ("FILTER_CUTOFF", 0x21), ("FILTER_RESONANCE", 0x22), ("FILTER_F", 0x23), ("FILTER_Q", 0x24),
   ("EQ_BASS_GAIN", 0x30), ("EQ_MID_GAIN", 0x31), ("EQ_TREBLE_GAIN", 0x32), ("REVERB_ROOM_SIZE", 0x40),
   ("REVERB_DAMPING", 0x41), ("REVERB_WET", 0x42), ("REVERB_FB", 0x43), ("REVERB_SIZE", 0x44),
   ("DELAY_TIME", 0x50), ("DELAY_FEEDBACK", 0x51), ("DELAY_MIX", 0x52), ("DELAY_D", 0x53),
   ("DELAY_SIZE", 0x54)]

/-- A register number, a register's name, or VOICE_i with i in decimal (10_state.md R40). -/
def parseRegister (s : List Char) : Option (BitVec 8) :=
  match registerNames.find? fun p => p.1 == String.ofList s with
  | some (_, n) => some (BitVec.ofNat 8 n)
  | none =>
    match s with
    | 'V' :: 'O' :: 'I' :: 'C' :: 'E' :: '_' :: rest =>
      (parseDigits 10 rest).bind fun i => if i < 32 then some (BitVec.ofNat 8 (0x80 + i)) else none
    | _ => parseU8 s

/-- The text before and after the first character that `p` accepts. -/
def splitAtFirst (p : Char → Bool) (s : List Char) : List Char × Option (List Char) :=
  match s.dropWhile fun c => !p c with
  | [] => (s, none)
  | _ :: rest => (s.takeWhile fun c => !p c, some rest)

/-- A signed decimal exponent. -/
def parseExponent : List Char → Option Int
  | '-' :: rest => (parseDigits 10 rest).map fun n => -(n : Int)
  | '+' :: rest => (parseDigits 10 rest).map Int.ofNat
  | s => (parseDigits 10 s).map Int.ofNat

/-- An unsigned decimal literal, digits with an optional point and exponent, to the nearest F (30_encoding.md R105). -/
def parseUnsignedDecimal (negative : Bool) (s : List Char) : Option F32 :=
  let byExponent := splitAtFirst (fun c => c == 'e' || c == 'E') s
  let byPoint := splitAtFirst (fun c => c == '.') byExponent.1
  let fraction := byPoint.2.getD []
  match parseDigits 10 (byPoint.1 ++ fraction), (byExponent.2.map parseExponent).getD (some 0) with
  | some n, some e =>
    let scale : Int := e - fraction.length
    some (fRound negative (n * fOneUnits * 10 ^ scale.toNat) (10 ^ (-scale).toNat))
  | _, _ => none

/-- A format-P operand: a decimal literal, or 0x and eight hex digits taken as the raw data word (30_encoding.md R105). -/
def parseFloatOperand : List Char → Option Word
  | '0' :: 'x' :: rest => if rest.length = 8 then (parseDigits 16 rest).map (BitVec.ofNat 32) else none
  | '-' :: rest => parseUnsignedDecimal true rest
  | '+' :: rest => parseUnsignedDecimal false rest
  | s => parseUnsignedDecimal false s

/-- The operand of SET_SAMPLE_RATE, an unsigned integer (30_encoding.md R105). -/
def parseU32 (s : List Char) : Option Word :=
  (parseInteger s).bind fun n => if n < 2 ^ 32 then some (BitVec.ofNat 32 n) else none

/-- The commands of a mnemonic and its operands (30_encoding.md R105, R106); none where the syntax has no such line. -/
def assembleCommand (mnemonic : String) (operands : List (List Char)) : Option (List Instr) :=
  match mnemonic, operands with
  | "NOP", [] => some [.nop 0 0 0]
  | "TICK", [] => some [.tick 0 0 0]
  | "NOTE_ON", [n, v] =>
    (parseU8 n).bind fun note => (parseU8 v).map fun velocity => [.noteOn 0 velocity note]
  | "NOTE_OFF", [x] => (parseU8 x).map fun c => [.noteOff 0 0 c]
  | "ALL_OFF", [] => some [.allOff 0 0 0]
  | "SET_MASTER_VOLUME", [x] => (parseU8 x).map fun c => [.setMasterVolume 0 0 c]
  | "SET_WAVEFORM", [x] => (parseName waveformNames x).map fun c => [.setWaveform 0 0 c]
  | "SET_VOICE_COUNT", [x] => (parseU8 x).map fun c => [.setVoiceCount 0 0 c]
  | "SET_SAMPLE_RATE", [x] => (parseU32 x).map fun d => [.setSampleRate 0 d]
  | "SET_LFO_ENABLE", [x] => (parseEnable x).map fun c => [.setLfoEnable 0 0 c]
  | "SET_LFO_VIBRATO", [x] => (parseEnable x).map fun c => [.setLfoVibrato 0 0 c]
  | "SET_LFO_TREMOLO", [x] => (parseEnable x).map fun c => [.setLfoTremolo 0 0 c]
  | "SET_LFO_RATE", [x] => (parseFloatOperand x).map fun d => [.setLfoRate 0 d]
  | "SET_LFO_DEPTH", [x] => (parseFloatOperand x).map fun d => [.setLfoDepth 0 d]
  | "SET_FILTER_ENABLE", [x] => (parseEnable x).map fun c => [.setFilterEnable 0 0 c]
  | "SET_FILTER_TYPE", [x] => (parseName filterTypeNames x).map fun c => [.setFilterType 0 0 c]
  | "SET_FILTER_CUTOFF", [x] => (parseFloatOperand x).map fun d => [.setFilterCutoff 0 d]
  | "SET_FILTER_RESONANCE", [x] => (parseFloatOperand x).map fun d => [.setFilterResonance 0 d]
  | "SET_EQ_ENABLE", [x] => (parseEnable x).map fun c => [.setEqEnable 0 0 c]
  | "SET_EQ_BASS_GAIN", [x] => (parseFloatOperand x).map fun d => [.setEqBassGain 0 d]
  | "SET_EQ_MID_GAIN", [x] => (parseFloatOperand x).map fun d => [.setEqMidGain 0 d]
  | "SET_EQ_TREBLE_GAIN", [x] => (parseFloatOperand x).map fun d => [.setEqTrebleGain 0 d]
  | "SET_REVERB_ENABLE", [x] => (parseEnable x).map fun c => [.setReverbEnable 0 0 c]
  | "SET_REVERB_ROOM_SIZE", [x] => (parseFloatOperand x).map fun d => [.setReverbRoomSize 0 d]
  | "SET_REVERB_DAMPING", [x] => (parseFloatOperand x).map fun d => [.setReverbDamping 0 d]
  | "SET_REVERB_WET", [x] => (parseFloatOperand x).map fun d => [.setReverbWet 0 d]
  | "SET_DELAY_ENABLE", [x] => (parseEnable x).map fun c => [.setDelayEnable 0 0 c]
  | "SET_DELAY_TIME", [x] => (parseFloatOperand x).map fun d => [.setDelayTime 0 d]
  | "SET_DELAY_FEEDBACK", [x] => (parseFloatOperand x).map fun d => [.setDelayFeedback 0 d]
  | "SET_DELAY_MIX", [x] => (parseFloatOperand x).map fun d => [.setDelayMix 0 d]
  | "READ_REG", [x] => (parseRegister x).map fun c => [.readReg 0 0 c]
  | "CLEAR_STATUS", [] => some [.clearStatus 0 0 0]
  | "SHUTDOWN", [] => some [.shutdown 0 0 0]
  | "TICKS", [x] => (parseInteger x).map fun n => expandPseudo (.ticks n)
  | "FX_BYPASS", [] => some (expandPseudo .fxBypass)
  | "LFO_OFF", [] => some (expandPseudo .lfoOff)
  | "NOTE", [n, v, k] =>
    (parseU8 n).bind fun note => (parseU8 v).bind fun velocity => (parseInteger k).map fun count =>
      expandPseudo (.note note velocity count)
  | _, _ => none

/-- The commands of one line (30_encoding.md R105): mnemonic, operands between commas, a comment after a semicolon. A line
with no command has none. -/
def assembleLine (line : String) : Option (List Instr) :=
  let text := trimBlank (line.toList.takeWhile fun c => c != ';')
  if text.isEmpty then some []
  else
    let mnemonic := text.takeWhile fun c => !isBlank c
    let operands := trimBlank (text.dropWhile fun c => !isBlank c)
    assembleCommand (String.ofList mnemonic)
      (if operands.isEmpty then [] else (splitCommas operands).map trimBlank)

/-- The words of one line (30_encoding.md R105, R107). -/
def assembleWords (line : String) : Option (List Word) := (assembleLine line).map fun is => is.flatMap encode

end Sys2Proof.Machine
end

