-- ==== Sys2Proof/WellFormed.lean ====
section
/-! DEFINITION. Which commands carry no encoding error: every reserved field is zero (30_encoding.md R102) and an F operand
is no NaN (R98, 60_exceptions.md R290 check 4). Out-of-range values in operand fields are well formed (R98: clamped). -/

namespace Sys2Proof

/-- 30_encoding.md R102: every reserved field of the command is 0. -/
def reservedZero : Instr → Bool
  | .nop a b c => a == 0 && b == 0 && c == 0
  | .tick a b c => a == 0 && b == 0 && c == 0
  | .noteOn a _ _ => a == 0
  | .noteOff a b _ => a == 0 && b == 0
  | .allOff a b c => a == 0 && b == 0 && c == 0
  | .setMasterVolume a b _ => a == 0 && b == 0
  | .setWaveform a b _ => a == 0 && b == 0
  | .setVoiceCount a b _ => a == 0 && b == 0
  | .setSampleRate z _ => z == 0
  | .setLfoEnable a b c => a == 0 && b == 0 && c.extractLsb' 1 7 == 0
  | .setLfoVibrato a b c => a == 0 && b == 0 && c.extractLsb' 1 7 == 0
  | .setLfoTremolo a b c => a == 0 && b == 0 && c.extractLsb' 1 7 == 0
  | .setLfoRate z _ => z == 0
  | .setLfoDepth z _ => z == 0
  | .setFilterEnable a b c => a == 0 && b == 0 && c.extractLsb' 1 7 == 0
  | .setFilterType a b _ => a == 0 && b == 0
  | .setFilterCutoff z _ => z == 0
  | .setFilterResonance z _ => z == 0
  | .setEqEnable a b c => a == 0 && b == 0 && c.extractLsb' 1 7 == 0
  | .setEqBassGain z _ => z == 0
  | .setEqMidGain z _ => z == 0
  | .setEqTrebleGain z _ => z == 0
  | .setReverbEnable a b c => a == 0 && b == 0 && c.extractLsb' 1 7 == 0
  | .setReverbRoomSize z _ => z == 0
  | .setReverbDamping z _ => z == 0
  | .setReverbWet z _ => z == 0
  | .setDelayEnable a b c => a == 0 && b == 0 && c.extractLsb' 1 7 == 0
  | .setDelayTime z _ => z == 0
  | .setDelayFeedback z _ => z == 0
  | .setDelayMix z _ => z == 0
  | .readReg a b _ => a == 0 && b == 0
  | .clearStatus a b c => a == 0 && b == 0 && c == 0
  | .shutdown a b c => a == 0 && b == 0 && c == 0

/-- The F operand of a format-P command other than SET_SAMPLE_RATE (60_exceptions.md R288 code 3), none for the others. -/
def floatOperand : Instr → Option F32
  | .nop _ _ _ => none
  | .tick _ _ _ => none
  | .noteOn _ _ _ => none
  | .noteOff _ _ _ => none
  | .allOff _ _ _ => none
  | .setMasterVolume _ _ _ => none
  | .setWaveform _ _ _ => none
  | .setVoiceCount _ _ _ => none
  | .setSampleRate _ _ => none
  | .setLfoEnable _ _ _ => none
  | .setLfoVibrato _ _ _ => none
  | .setLfoTremolo _ _ _ => none
  | .setLfoRate _ rate => some rate
  | .setLfoDepth _ depth => some depth
  | .setFilterEnable _ _ _ => none
  | .setFilterType _ _ _ => none
  | .setFilterCutoff _ cutoff => some cutoff
  | .setFilterResonance _ resonance => some resonance
  | .setEqEnable _ _ _ => none
  | .setEqBassGain _ gain => some gain
  | .setEqMidGain _ gain => some gain
  | .setEqTrebleGain _ gain => some gain
  | .setReverbEnable _ _ _ => none
  | .setReverbRoomSize _ roomSize => some roomSize
  | .setReverbDamping _ damping => some damping
  | .setReverbWet _ wet => some wet
  | .setDelayEnable _ _ _ => none
  | .setDelayTime _ time => some time
  | .setDelayFeedback _ feedback => some feedback
  | .setDelayMix _ mix => some mix
  | .readReg _ _ _ => none
  | .clearStatus _ _ _ => none
  | .shutdown _ _ _ => none

/-- The command has no encoding error (30_encoding.md R98). -/
def wellFormed (i : Instr) : Bool :=
  reservedZero i && match floatOperand i with
    | some x => !Machine.fIsNaN x
    | none => true

end Sys2Proof
end

