-- ==== Sys2Proof/Safety.lean ====
section
/-! DEFINITION. What the statements about runs speak of: the invariants of the state, each from its rule of spec/, and the
merge of the two agents' streams (20_memory.md R83, R84). -/

namespace Sys2Proof.Machine

/-- 10_state.md R27: active = 1 exactly when env.state is not OFF. -/
def voiceConsistent (v : Voice) : Bool := v.active == (v.env.state != .off)

/-- 10_state.md R27 for every voice of the bank. -/
def voicesConsistent (s : State) : Bool := s.voices.all voiceConsistent

/-- The bank (10_state.md R25; 47_system.md R278): MAX_VOICES records, VOICE_COUNT in 1..MAX_VOICES, and no voice at or
above VOICE_COUNT sounding. -/
def bankOk (s : State) : Bool :=
  decide (s.voices.length = s.cfg.maxVoices)
    && decide (1 ≤ s.settings.voiceCount.toNat ∧ s.settings.voiceCount.toNat ≤ s.cfg.maxVoices)
    && (s.voices.drop s.settings.voiceCount.toNat).all fun v => !v.active

/-- The envelope counter inside its phase (41_envelope.md R129 to R133, R137). -/
def envInPhase (cfg : Config) (e : Env) : Bool :=
  match e.state with
  | .off => e.counter == 0
  | .attack => decide (e.counter.toNat < cfg.attackSamples)
  | .decay => decide (e.counter.toNat < cfg.decaySamples)
  | .sustain => true
  | .release => decide (e.counter.toNat ≤ cfg.releaseSamples)

/-- Every envelope counter inside its phase. -/
def envelopesInPhase (s : State) : Bool := s.voices.all fun v => envInPhase s.cfg v.env

/-- A Q16.16 phase is held in its 16 fraction bits (42_voice.md R146). -/
def q16PhasesOk (s : State) : Bool :=
  decide (s.cfg.phaseRepr = .q16) == false || s.voices.all fun v => decide (v.phase.toNat < 65536)

/-- An F setting lies in its legal range (10_state.md R22); no NaN does. -/
def fInRange (lo x hi : F32) : Bool := fLe lo x && fLe x hi

/-- Every setting lies in its legal range (10_state.md R22). -/
def settingsInRange (cfg : Config) (x : Settings) : Bool :=
  decide (cfg.srMin ≤ x.sampleRate.toNat ∧ x.sampleRate.toNat ≤ cfg.srMax)
    && decide (1 ≤ x.voiceCount.toNat ∧ x.voiceCount.toNat ≤ cfg.maxVoices)
    && fInRange (fDecimal 1 10) x.lfoRate (fOfNat 20)
    && fInRange (fOfNat 0) x.lfoDepth (fOfNat 100)
    && fInRange (fOfNat 20) x.filterCutoff (fOfNat 20000)
    && fInRange (fOfNat 0) x.filterResonance (fDecimal 99 100)
    && fInRange (fOfInt (-12)) x.eqBassGain (fOfNat 12)
    && fInRange (fOfInt (-12)) x.eqMidGain (fOfNat 12)
    && fInRange (fOfInt (-12)) x.eqTrebleGain (fOfNat 12)
    && fInRange (fOfNat 0) x.reverbRoomSize (fOfNat 1)
    && fInRange (fOfNat 0) x.reverbDamping (fOfNat 1)
    && fInRange (fOfNat 0) x.reverbWet (fOfNat 1)
    && fInRange (fOfNat 10) x.delayTime (fOfNat 1000)
    && fInRange (fOfNat 0) x.delayFeedback (fOfNat 90)
    && fInRange (fOfNat 0) x.delayMix (fOfNat 100)

/-- The words that the reverb holds (20_memory.md R73). -/
def reverbWords (p : Pool) : Nat := if p.rev.allocated then reverbSize p.rev else 0

/-- The words that the delay holds (20_memory.md R74). -/
def delayWords (p : Pool) : Nat := if p.dly.allocated then p.dly.size.toNat else 0

/-- Every reverb index lies below its length (10_state.md R31). -/
def reverbIndicesOk (rev : Reverb) : Bool :=
  (List.finRange 6).all fun j => decide (rev.idx[j].toNat < rev.len[j].toNat)

/-- The buffers (10_state.md R23, R31, R32, R36; 20_memory.md R72): the enables tell the allocations, MEM_FREE is what is not
allocated, the regions are disjoint and inside buffer memory, the positions lie inside them, and memory is canonical. -/
def buffersOk (s : State) : Bool :=
  (s.pool.rev.allocated == s.settings.reverbEnable)
    && (s.pool.dly.allocated == s.settings.delayEnable)
    && decide (s.pool.free.toNat + reverbWords s.pool + delayWords s.pool = s.cfg.memWords)
    && (!s.pool.rev.allocated || (s.pool.rev.base == 0 && reverbIndicesOk s.pool.rev))
    && (!s.pool.dly.allocated ||
      (decide (s.pool.dly.base.toNat + s.pool.dly.size.toNat = s.cfg.memWords)
        && decide (s.pool.dly.wp.toNat < s.pool.dly.size.toNat)
        && (s.pool.dly.size == s.derived.delayN)))
    && Memory.wf s.pool.mem

/-- STATUS (10_state.md R33; 60_exceptions.md R287, R288): LAST_CODE is 0 exactly when no bit is set, at most 7, and its
own bit is set. -/
def statusOk (st : Status) : Bool :=
  if st.lastCode == 0 then st.sticky == 0
  else decide (st.lastCode.toNat ≤ 7) && st.sticky.getLsbD (st.lastCode.toNat - 1)

/-- The halted state (60_exceptions.md R299): no voice sounds and no buffer is held. -/
def haltedOk (s : State) : Bool :=
  !s.halted || ((s.voices.all fun v => !v.active) && !s.pool.rev.allocated && !s.pool.dly.allocated)

/-- A pending word begins a format-P command (30_encoding.md R99). -/
def pendingOk (p : Pending) : Bool := p.host.all beginsFormatP && p.clock.all beginsFormatP

/-- The derived coefficients are those of the settings in force (10_state.md R24). -/
def derivedOk (s : State) : Prop := s.derived = deriveAll s.settings

/-- The invariant of the machine, its parts together. -/
structure Inv (s : State) : Prop where
  inst : isInstance s.cfg = true
  consistent : voicesConsistent s = true
  bank : bankOk s = true
  envelopes : envelopesInPhase s = true
  phases : q16PhasesOk s = true
  settings : settingsInRange s.cfg s.settings = true
  derived : derivedOk s
  buffers : buffersOk s = true
  status : statusOk s.status = true
  halted : haltedOk s = true
  pending : pendingOk s.pending = true

/-- The value of a finite F as a rational number (00_scope.md R12). -/
def fValue (x : F32) : ℚ := (fUnits x : ℚ) / fOneUnits

/-- r is the rounding of the number q to the nearest F, ties to even (00_scope.md R12): below the overflow bound a finite F
that no finite F is nearer than, an even one where another is as near; from that bound on the infinity of q's sign. -/
def isNearestEven (r : F32) (q : ℚ) : Prop :=
  if |q| < 2 ^ 128 - 2 ^ 103 then
    fIsFinite r = true ∧ ∀ z, fIsFinite z = true →
      |fValue r - q| ≤ |fValue z - q| ∧ (|fValue r - q| = |fValue z - q| → fValue z = fValue r ∨ r.getLsbD 0 = false)
  else r = fInf (decide (q < 0))

/-- An F in [0, 1): lfo.phase and a FLOAT phase (10_state.md R28, 42_voice.md R145). -/
def fInUnit (x : F32) : Bool := fLe (fOfNat 0) x && fLt x (fOfNat 1)

/-- A finite F other than -0. -/
def fPlain (x : F32) : Bool := fIsFinite x && x != 0x80000000

/-- Successive samples through the delay line (45_reverb_delay.md R236): the outputs, and the pool after them. -/
def delayRuns (cfg : Config) (x : Settings) (delayD : Word) : List F32 → Pool → Except Fault (List F32 × Pool)
  | [], p => .ok ([], p)
  | input :: rest, p =>
    match delayRun cfg x delayD input p with
    | .error e => .error e
    | .ok (y, p') =>
      match delayRuns cfg x delayD rest p' with
      | .error e => .error e
      | .ok (ys, p'') => .ok (y :: ys, p'')

/-- The field c of an enable command that writes a value (30_encoding.md R97). -/
def enableField (on : Bool) : BitVec 8 := if on then 1 else 0

/-- The words that an agent contributes to a sequence of arrivals, in its order. -/
def agentWords (agent : Agent) : List Arrival → List Word
  | [] => []
  | .word a w :: rest => if a = agent then w :: agentWords agent rest else agentWords agent rest
  | .reset :: rest => agentWords agent rest

/-- 20_memory.md R84: a sequence of arrivals merges the two agents' streams, each in its own order (R83). -/
def isMerge (port : List Arrival) (host clock : List Word) : Prop :=
  agentWords .host port = host ∧ agentWords .sampleClock port = clock ∧ Arrival.reset ∉ port

/-- The end of a run (00_scope.md R7): no agent has a word left. -/
def runEnded (s : State) : Bool := s.port.isEmpty

/-- A command that runs while the block is halted (60_exceptions.md R291). -/
def runsWhileHalted : Instr → Bool
  | .nop _ _ _ => true
  | .readReg _ _ _ => true
  | .clearStatus _ _ _ => true
  | .tick _ _ _ => false
  | .noteOn _ _ _ => false
  | .noteOff _ _ _ => false
  | .allOff _ _ _ => false
  | .setMasterVolume _ _ _ => false
  | .setWaveform _ _ _ => false
  | .setVoiceCount _ _ _ => false
  | .setSampleRate _ _ => false
  | .setLfoEnable _ _ _ => false
  | .setLfoVibrato _ _ _ => false
  | .setLfoTremolo _ _ _ => false
  | .setLfoRate _ _ => false
  | .setLfoDepth _ _ => false
  | .setFilterEnable _ _ _ => false
  | .setFilterType _ _ _ => false
  | .setFilterCutoff _ _ => false
  | .setFilterResonance _ _ => false
  | .setEqEnable _ _ _ => false
  | .setEqBassGain _ _ => false
  | .setEqMidGain _ _ => false
  | .setEqTrebleGain _ _ => false
  | .setReverbEnable _ _ _ => false
  | .setReverbRoomSize _ _ => false
  | .setReverbDamping _ _ => false
  | .setReverbWet _ _ => false
  | .setDelayEnable _ _ _ => false
  | .setDelayTime _ _ => false
  | .setDelayFeedback _ _ => false
  | .setDelayMix _ _ => false
  | .shutdown _ _ _ => false

end Sys2Proof.Machine
end

