-- ==== Sys2Proof/Certificates/Slice0/Obligations.lean ====
section
/-! DEFINITION. The statements about the model for the provers, each from the rules of spec/ that its docstring names. -/

section

open Sys2Proof Sys2Proof.Machine

/-! ### Encoding -/

/-- 30_encoding.md R96, R97, R101: decoding the words of a command gives that command with every field as it was, and
leaves the words after it. -/
def Obligations.DecodeOfEncode : Prop :=
  ∀ (i : Instr) (rest : List Word), decode (encode i ++ rest) = .ok (i, rest)

/-- 30_encoding.md R96, R101: what the decoder reads is exactly what stood in the words: no bit of a decoded word is
lost. -/
def Obligations.EncodeOfDecode : Prop :=
  ∀ (ws : List Word) (i : Instr) (rest : List Word), decode ws = .ok (i, rest) → ws = encode i ++ rest

/-- 30_encoding.md R99: a word with a format-P opcode begins a two-word command and waits, every other word is a
command of its own, and the word after a waiting first word of the same agent is its data word whatever its value;
nothing here depends on the other agent's waiting word or changes it. -/
def Obligations.FirstWordDecidesLength : Prop :=
  (∀ w : Word, beginsFormatP w = true ↔
    (opcodeOf w).toNat ∈
      [0x08, 0x13, 0x14, 0x22, 0x23, 0x31, 0x32, 0x33, 0x41, 0x42, 0x43, 0x51, 0x52, 0x53]) ∧
  ∀ (s : State) (agent : Agent) (w : Word) (rest : List Arrival),
    isInstance s.cfg = true → s.port = .word agent w :: rest →
    (pendingOf s.pending agent = none → beginsFormatP w = true →
      step s = .next { s with port := rest, pending := setPending s.pending agent (some w) }) ∧
    (pendingOf s.pending agent = none → beginsFormatP w = false → opcodeUndefined w = false →
      ∃ i, encode i = [w] ∧ step s = exec i { s with port := rest, pending := setPending s.pending agent none }) ∧
    (pendingOf s.pending agent = none → beginsFormatP w = false → opcodeUndefined w = true →
      step s = .next
        ((State.withPending (s.withPort rest) (setPending s.pending agent none)).record .illegalOpcode)) ∧
    ∀ w0, pendingOf s.pending agent = some w0 → beginsFormatP w0 = true →
      ∃ i, encode i = [w0, w] ∧ step s = exec i { s with port := rest, pending := setPending s.pending agent none }

/-- 30_encoding.md R103: the undefined opcodes, and that a word with one is a one-word command that executes nothing
and records code 1; 0xFFFFFFFF is undefined and 0x00000000 is NOP. -/
def Obligations.UndefinedOpcodes : Prop :=
  (∀ w : Word, opcodeUndefined w = true ↔
    (let op := (opcodeOf w).toNat
     0x09 ≤ op ∧ op ≤ 0x0F ∨ 0x15 ≤ op ∧ op ≤ 0x1F ∨ 0x24 ≤ op ∧ op ≤ 0x2F ∨ 0x34 ≤ op ∧ op ≤ 0x3F
       ∨ 0x44 ≤ op ∧ op ≤ 0x4F ∨ 0x54 ≤ op ∧ op ≤ 0xEF ∨ 0xF3 ≤ op ∧ op ≤ 0xFF)) ∧
  (∀ (w : Word) (rest : List Word), opcodeUndefined w = true →
    decode (w :: rest) = .error (.undefinedOpcode (opcodeOf w))) ∧
  (∀ (s : State) (agent : Agent) (w : Word) (rest : List Arrival),
    isInstance s.cfg = true → s.port = .word agent w :: rest → pendingOf s.pending agent = none →
    opcodeUndefined w = true → step s = .next (State.record { s with port := rest } .illegalOpcode)) ∧
  opcodeUndefined 0xFFFFFFFF = true ∧ decode [0x00000000] = .ok (.nop 0 0 0, [])

/-- 30_encoding.md R107: some of its worked words, read by the decoder. -/
def Obligations.WorkedEncodings : Prop :=
  decode [0x01000000] = .ok (.tick 0 0 0, []) ∧
  decode [0x02007F45] = .ok (.noteOn 0 127 69, []) ∧
  decode [0x03000045] = .ok (.noteOff 0 0 69, []) ∧
  decode [0x05000080] = .ok (.setMasterVolume 0 0 128, []) ∧
  decode [0x08000000, 0x00006E00] = .ok (.setSampleRate 0 28160, []) ∧
  decode [0x10000001] = .ok (.setLfoEnable 0 0 1, []) ∧
  decode [0x23000000, 0x3F7D70A4] = .ok (.setFilterResonance 0 0x3F7D70A4, []) ∧
  decode [0x31000000, 0xC1400000] = .ok (.setEqBassGain 0 0xC1400000, []) ∧
  decode [0x43000000, 0x3F000000] = .ok (.setReverbWet 0 0x3F000000, []) ∧
  decode [0x51000000, 0x437A0000] = .ok (.setDelayTime 0 0x437A0000, []) ∧
  decode [0xF0000001] = .ok (.readReg 0 0 1, [])

/-- 20_memory.md R76: a word on a byte-wide medium, least significant byte first, and back: no word is changed.
20_memory.md R77: a stereo frame packed into a word has left in bits 15:0 and right in bits 31:16, a mono frame has
the sample in bits 15:0 and zero above; 46_mixer.md R257: a stereo frame carries the value twice. -/
def Obligations.WordsAndFramesOnAMedium : Prop :=
  ((∀ w : Word, (bytesOfWord w).map BitVec.toNat
    = [w.toNat % 256, w.toNat / 256 % 256, w.toNat / 65536 % 256, w.toNat / 16777216]) ∧
  ∀ ws : List Word, wordsOfBytes (ws.flatMap bytesOfWord) = ws) ∧
  ((∀ left right : BitVec 16, (packFrame (.stereo left right)).extractLsb' 0 16 = left ∧
    (packFrame (.stereo left right)).extractLsb' 16 16 = right) ∧
  (∀ sample : BitVec 16, (packFrame (.mono sample)).extractLsb' 0 16 = sample ∧
    (packFrame (.mono sample)).extractLsb' 16 16 = 0) ∧
  ∀ (cfg : Config) (out : BitVec 16), (cfg.backend = .digitalStereo → frameOf cfg out = .stereo out out) ∧
    (cfg.backend = .analogMono → frameOf cfg out = .mono out))

/-! ### The whole machine -/

/-- 20_memory.md R84, 30_encoding.md R99: when the words an agent has sent are those of a command, the step takes the
word from the port, leaves the agent nothing waiting and is that command's execution. -/
def Obligations.StepRunsDecodedCommand : Prop :=
  ∀ (s : State) (agent : Agent) (w : Word) (rest : List Arrival) (i : Instr) (after : List Word),
    isInstance s.cfg = true → s.port = .word agent w :: rest →
    decode ((pendingOf s.pending agent).toList ++ [w]) = .ok (i, after) →
    step s = exec i { s with port := rest, pending := setPending s.pending agent none }

/-- 00_scope.md R9: a parameter set that violates a constraint of R8 describes no instance and is refused; every other
is not. That MEM_WORDS is below 2^32 is no constraint of R8: it is deduced from the u32 registers of 10_state.md R36,
R40 (log entry 8). R7: with no word left the run has ended; that a step then answers the same state is the model's choice
(log entry 7). 70_reset_and_hazards.md R305, R309: reset as an arrival puts everything, a waiting first word and the
halted state included, at its reset value (the later arrivals stay: the model's choice, log entry 12). -/
def Obligations.StepWithoutCommand : Prop :=
  ((∀ s : State, isInstance s.cfg = false → step s = .refused .notAnInstance) ∧
  (∀ s : State, isInstance s.cfg = true → step s ≠ .refused .notAnInstance) ∧
  (∀ s : State, isInstance s.cfg = true → runEnded s = true → step s = .next s) ∧
  ∀ cfg : Config, isInstance cfg = true ↔
    (1 ≤ cfg.maxVoices ∧ cfg.maxVoices ≤ 32) ∧ (1 ≤ cfg.srMin ∧ cfg.srMin ≤ cfg.srMax ∧ cfg.srMax ≤ 2 ^ 24) ∧
    (∀ n ∈ [cfg.attackSamples, cfg.decaySamples, cfg.releaseSamples], 1 ≤ n ∧ n ≤ 2 ^ 24) ∧
    cfg.sustainLevel ≤ 255 ∧ 1 ≤ cfg.reverbRefRate ∧ cfg.memWords < 2 ^ 32 ∧
    ∀ x ∈ [cfg.init.lfoRate, cfg.init.lfoDepth, cfg.init.filterCutoff, cfg.init.filterResonance, cfg.init.eqBassGain,
      cfg.init.eqMidGain, cfg.init.eqTrebleGain, cfg.init.reverbRoomSize, cfg.init.reverbDamping, cfg.init.reverbWet,
      cfg.init.delayTime, cfg.init.delayFeedback, cfg.init.delayMix], fIsNaN x = false) ∧
  (∀ (s : State) (rest : List Arrival), isInstance s.cfg = true → s.port = .reset :: rest →
    step s = .next { State.resetOf s.cfg with port := rest })

/-- 20_memory.md R83: a step takes the words of each agent in the order the agent issued them: from one agent none is
taken, or the first that is left. -/
def Obligations.AgentOrderKept : Prop :=
  ∀ (s t : State) (agent : Agent), step s = .next t →
    agentWords agent t.port = agentWords agent s.port ∨
      ∃ w, agentWords agent s.port = w :: agentWords agent t.port

/-! ### The checks before a command -/

/-- 60_exceptions.md R290 (checks 2 to 4), R291; 30_encoding.md R102: a command that may not run while halted records
code 7 and nothing else; one past that check with a nonzero reserved field records code 2; one past both with a NaN
operand records code 3. -/
def Obligations.ChecksInOrder : Prop :=
  ∀ (i : Instr) (s : State),
    (s.halted = true → runsWhileHalted i = false → exec i s = .next (s.record .halted)) ∧
    (s.halted = false ∨ runsWhileHalted i = true → reservedZero i = false →
      exec i s = .next (s.record .reservedField)) ∧
    (s.halted = false ∨ runsWhileHalted i = true → reservedZero i = true →
      (∃ x, floatOperand i = some x ∧ fIsNaN x = true) → exec i s = .next (s.record .nanOperand))

/-- 60_exceptions.md R287: recording code k sets STATUS[k-1], writes k into LAST_CODE and changes nothing else; the
numbers are those of R288. -/
def Obligations.RecordingACode : Prop :=
  (∀ (s : State) (code : Code),
    s.record code = { s with status := (s.record code).status } ∧
    (s.record code).status.lastCode = BitVec.ofNat 8 (codeNumber code) ∧
    ∀ k, k < 7 → (s.record code).status.sticky.getLsbD k
      = (decide (k + 1 = codeNumber code) || s.status.sticky.getLsbD k)) ∧
  [Code.illegalOpcode, .reservedField, .nanOperand, .badRegister, .reverbAlloc, .delayAlloc, .halted].map codeNumber
    = [1, 2, 3, 4, 5, 6, 7]

/-! ### Reading registers -/

/-- 10_state.md R40: READ_REG of an assigned register, in any state, halted or not, appends its value to the response
stream and changes nothing else. -/
def Obligations.ReadRegisterMap : Prop :=
  ∀ s : State,
    (∀ r ∈ ([(0x00, 0x43414531), (0x01, statusWord s.status s.halted), (0x02, configWord s.cfg),
        (0x03, s.settings.sampleRate), (0x04, s.sampleCount), (0x05, s.settings.masterVolume.setWidth 32),
        (0x06, (waveformCode s.settings.waveform).setWidth 32), (0x07, s.settings.voiceCount.setWidth 32),
        (0x08, voiceActiveWord s.cfg.maxVoices s.voices), (0x09, enablesWord s.settings), (0x0A, s.pool.free),
        (0x0B, BitVec.ofNat 32 s.cfg.attackSamples), (0x0C, BitVec.ofNat 32 s.cfg.decaySamples),
        (0x0D, BitVec.ofNat 32 s.cfg.releaseSamples), (0x0E, BitVec.ofNat 32 s.cfg.sustainLevel),
        (0x0F, BitVec.ofNat 32 s.cfg.memWords), (0x10, s.settings.lfoRate), (0x11, s.settings.lfoDepth),
        (0x12, s.derived.lfoInc), (0x20, (filterTypeCode s.settings.filterType).setWidth 32),
        (0x21, s.settings.filterCutoff), (0x22, s.settings.filterResonance), (0x23, s.derived.filterF),
        (0x24, s.derived.filterQ), (0x30, s.settings.eqBassGain), (0x31, s.settings.eqMidGain),
        (0x32, s.settings.eqTrebleGain), (0x40, s.settings.reverbRoomSize), (0x41, s.settings.reverbDamping),
        (0x42, s.settings.reverbWet), (0x43, s.derived.reverbFb),
        (0x44, if s.pool.rev.allocated then BitVec.ofNat 32 (s.pool.rev.len.toList.map BitVec.toNat).sum else 0),
        (0x50, s.settings.delayTime), (0x51, s.settings.delayFeedback), (0x52, s.settings.delayMix),
        (0x53, s.derived.delayD), (0x54, if s.pool.dly.allocated then s.pool.dly.size else 0)] :
        List (BitVec 8 × Word)),
      exec (.readReg 0 0 r.1) s = .next { s with responses := s.responses ++ [r.2] }) ∧
    ∀ (i : Nat) (v : Voice), i < s.cfg.maxVoices → i < 32 → s.voices[i]? = some v →
      exec (.readReg 0 0 (BitVec.ofNat 8 (0x80 + i))) s
        = .next { s with responses := s.responses ++ [voiceWord v] }

/-- 10_state.md R45: READ_REG of an unassigned register number, 0x80 + i with i >= MAX_VOICES included, responds 0 and
records code 4. -/
def Obligations.UnassignedRegister : Prop :=
  ∀ (s : State) (n : BitVec 8),
    n ∉ ([0x00, 0x01, 0x02, 0x03, 0x04, 0x05, 0x06, 0x07, 0x08, 0x09, 0x0A, 0x0B, 0x0C, 0x0D, 0x0E, 0x0F, 0x10, 0x11,
      0x12, 0x20, 0x21, 0x22, 0x23, 0x24, 0x30, 0x31, 0x32, 0x40, 0x41, 0x42, 0x43, 0x44, 0x50, 0x51, 0x52, 0x53,
      0x54] : List (BitVec 8)) →
    ¬ (0x80 ≤ n.toNat ∧ n.toNat < 0x80 + s.cfg.maxVoices) →
    exec (.readReg 0 0 n) s = .next (State.record { s with responses := s.responses ++ [0] } .badRegister)

/-- 10_state.md R41 with the codes of R26 and R38, R43: the bits of VOICE_i and of ENABLES. 10_state.md R33 and R42:
the bits of STATUS and of CONFIG. 10_state.md R40, register 0x08: bit i of VOICE_ACTIVE is V[i].active for i below
MAX_VOICES, the other bits are 0. -/
def Obligations.RegisterLayouts : Prop :=
  ((∀ v : Voice,
    (voiceWord v).extractLsb' 0 7 = v.note ∧ (voiceWord v).getLsbD 7 = false ∧
    (voiceWord v).extractLsb' 8 7 = v.velocity ∧ (voiceWord v).getLsbD 15 = v.active ∧
    ((voiceWord v).extractLsb' 16 3).toNat
      = (match v.env.state with | .off => 0 | .attack => 1 | .decay => 2 | .sustain => 3 | .release => 4) ∧
    (voiceWord v).getLsbD 19 = false ∧
    ((voiceWord v).extractLsb' 20 3).toNat
      = (match v.waveform with | .sine => 0 | .square => 1 | .sawtooth => 2 | .triangle => 3 | .noise => 4) ∧
    (voiceWord v).extractLsb' 23 9 = 0) ∧
  ∀ x : Settings,
    (enablesWord x).getLsbD 0 = x.lfoEnable ∧ (enablesWord x).getLsbD 1 = x.lfoVibrato ∧
    (enablesWord x).getLsbD 2 = x.lfoTremolo ∧ (enablesWord x).getLsbD 3 = x.filterEnable ∧
    (enablesWord x).getLsbD 4 = x.eqEnable ∧ (enablesWord x).getLsbD 5 = x.reverbEnable ∧
    (enablesWord x).getLsbD 6 = x.delayEnable ∧ (enablesWord x).extractLsb' 7 25 = 0) ∧
  ((∀ (st : Status) (halted : Bool),
    (statusWord st halted).extractLsb' 0 7 = st.sticky ∧ (statusWord st halted).getLsbD 7 = false ∧
    (statusWord st halted).extractLsb' 8 8 = st.lastCode ∧ (statusWord st halted).getLsbD 16 = halted ∧
    (statusWord st halted).extractLsb' 17 15 = 0) ∧
  ∀ cfg : Config, cfg.maxVoices ≤ 32 →
    ((configWord cfg).extractLsb' 0 6).toNat = cfg.maxVoices ∧ (configWord cfg).extractLsb' 6 2 = 0 ∧
    ((configWord cfg).getLsbD 8 = true ↔ cfg.backend = .analogMono) ∧
    ((configWord cfg).getLsbD 9 = true ↔ cfg.phaseRepr = .q16) ∧
    ((configWord cfg).getLsbD 10 = true ↔ cfg.sineMode = .direct) ∧
    ((configWord cfg).getLsbD 11 = true ↔ cfg.envArith = .integer) ∧
    ((configWord cfg).getLsbD 12 = true ↔ cfg.lfsrForm = .fibonacci) ∧
    ((configWord cfg).getLsbD 13 = true ↔ cfg.noiseReduce = .high16) ∧
    (configWord cfg).getLsbD 14 = cfg.lfsrReseedOnNoteOn ∧
    ((configWord cfg).getLsbD 15 = true ↔ cfg.waveformLatch = .live) ∧
    ((configWord cfg).getLsbD 16 = true ↔ cfg.lfoCallsPerSample = .two) ∧
    ((configWord cfg).getLsbD 17 = true ↔ cfg.reverbLenMode = .scaled) ∧
    (configWord cfg).extractLsb' 18 14 = 0) ∧
  (∀ (maxVoices : Nat) (voices : List Voice) (i : Nat), maxVoices ≤ 32 →
    (voiceActiveWord maxVoices voices).getLsbD i
      = (decide (i < maxVoices) && (voices.getD i idleVoice).active))

/-! ### The system commands -/

/-- 47_system.md R265, R270: NOP changes nothing; CLEAR_STATUS clears STATUS bits 6:0 and LAST_CODE and nothing else;
both run while halted. -/
def Obligations.NopAndClearStatus : Prop :=
  ∀ s : State,
    exec (.nop 0 0 0) s = .next s ∧
    exec (.clearStatus 0 0 0) s = .next { s with status := { sticky := 0, lastCode := 0 } }

/-- 47_system.md R272: SHUTDOWN forces every voice off, returns the reverb's and the delay's words to buffer memory,
disables both, and halts; the other settings and every other field stay. That the freed words keep their contents and the
freed buffers their base, lengths, indices and damping stores is the model's choice (log entries 10 and 11): R223 says
that the contents are lost. -/
def Obligations.ShutdownEffect : Prop :=
  ∀ s : State, s.halted = false →
    exec (.shutdown 0 0 0) s = .next
      { s with
        voices := s.voices.map fun v => { v with active := false, env := { state := .off, counter := 0 } }
        settings := { s.settings with reverbEnable := false, delayEnable := false }
        pool :=
          { s.pool with
            free := s.pool.free
              + (if s.settings.reverbEnable then BitVec.ofNat 32 (s.pool.rev.len.toList.map BitVec.toNat).sum else 0)
              + (if s.settings.delayEnable then s.pool.dly.size else 0)
            rev := if s.settings.reverbEnable then { s.pool.rev with allocated := false } else s.pool.rev
            dly := if s.settings.delayEnable then { s.pool.dly with allocated := false, size := 0, wp := 0 }
              else s.pool.dly }
        halted := true }

/-- 47_system.md R275: SET_SAMPLE_RATE clamps the rate and recomputes LFO_INC, FILTER_F, FILTER_Q, EQ_COEF, DELAY_N
and DELAY_D; with the rate unchanged, or with no buffer to reallocate, nothing else changes. 45_reverb_delay.md R246,
47_system.md R275: at a change of rate the delay (and a SCALED reverb) is freed first and then allocated anew for the
new rate, the reverb before the delay; what the allocations do is SET_REVERB_ENABLE's and SET_DELAY_ENABLE's. -/
def Obligations.SampleRateEffect : Prop :=
  (∀ (s : State) (rate : Word), s.halted = false →
    let r : Word := BitVec.ofNat 32 (min (max rate.toNat s.cfg.srMin) s.cfg.srMax)
    r = s.settings.sampleRate
      ∨ (s.cfg.reverbLenMode = .fixed ∨ s.pool.rev.allocated = false) ∧ s.pool.dly.allocated = false →
    exec (.setSampleRate 0 rate) s = .next
      { s with
        settings := { s.settings with sampleRate := r }
        derived :=
          { s.derived with
            lfoInc := fDiv s.settings.lfoRate (fOfNat r.toNat)
            filterF := filterFOf s.settings.filterCutoff r
            filterQ := filterQOf s.settings.filterResonance
            eqCoef := #v[bandCoefOf 120 s.settings.eqBassGain r, bandCoefOf 1000 s.settings.eqMidGain r,
              bandCoefOf 8000 s.settings.eqTrebleGain r]
            delayN := BitVec.ofNat 32 (r.toNat * 1000 / 1000)
            delayD := delayDOf s.settings.delayTime r (BitVec.ofNat 32 (r.toNat * 1000 / 1000)) } }) ∧
  (∀ (s : State) (rate : Word), s.halted = false →
    let r : Word := BitVec.ofNat 32 (min (max rate.toNat s.cfg.srMin) s.cfg.srMax)
    r ≠ s.settings.sampleRate →
    let changed := (s.withSettings { s.settings with sampleRate := r }).withDerived
      (rateDerived { s.settings with sampleRate := r } s.derived)
    (s.cfg.reverbLenMode = .scaled → s.pool.rev.allocated = true → s.pool.dly.allocated = true →
      exec (.setSampleRate 0 rate) s = .next (delayAlloc (reverbAlloc (delayFree (reverbFree changed))))) ∧
    (s.cfg.reverbLenMode = .scaled → s.pool.rev.allocated = true → s.pool.dly.allocated = false →
      exec (.setSampleRate 0 rate) s = .next (reverbAlloc (reverbFree changed))) ∧
    (s.cfg.reverbLenMode = .fixed ∨ s.pool.rev.allocated = false → s.pool.dly.allocated = true →
      exec (.setSampleRate 0 rate) s = .next (delayAlloc (delayFree changed))))

/-- 47_system.md R278: SET_VOICE_COUNT clamps the count to 1..MAX_VOICES and forces the voices at and above it off.
46_mixer.md R258, 42_voice.md R172: SET_MASTER_VOLUME stores any u8; SET_WAVEFORM stores the code clamped to 4.
Nothing else changes. -/
def Obligations.VoiceCountVolumeAndWaveform : Prop :=
  ∀ s : State, s.halted = false →
    (∀ count : BitVec 8, isInstance s.cfg = true →
      let n := min (max count.toNat 1) s.cfg.maxVoices
      exec (.setVoiceCount 0 0 count) s = .next
        { s with
          voices := s.voices.mapIdx fun k v =>
            if k < n then v else { v with active := false, env := { state := .off, counter := 0 } }
          settings := { s.settings with voiceCount := BitVec.ofNat 8 n } }) ∧
    (∀ volume : BitVec 8, exec (.setMasterVolume 0 0 volume) s
      = .next { s with settings := { s.settings with masterVolume := volume } }) ∧
    ∀ code : BitVec 8, ∃ wave : Waveform, (waveformCode wave).toNat = min code.toNat 4 ∧
      exec (.setWaveform 0 0 code) s = .next { s with settings := { s.settings with waveform := wave } }

/-! ### The voice bank's commands -/

/-- 42_voice.md R165, R166, R144: NOTE_ON starts the lowest inactive voice k below VOICE_COUNT: note and velocity
clamped to 127, the WAVEFORM in force, the increment of R142 or R143, phase 0, the LFSR reseeded or kept, the envelope
at (ATTACK, 0); every other voice and every other field stays. 42_voice.md R166: with every voice below VOICE_COUNT
active NOTE_ON takes voice 0 at once. -/
def Obligations.NoteOnEffect : Prop :=
  (∀ (s : State) (velocity note : BitVec 8) (k : Nat) (v : Voice),
    s.halted = false → k < s.settings.voiceCount.toNat → s.voices[k]? = some v → v.active = false →
    (∀ j u, j < k → s.voices[j]? = some u → u.active = true) →
    exec (.noteOn 0 velocity note) s = .next
      { s with
        voices := s.voices.set k
          { active := true
            note := BitVec.ofNat 7 (min note.toNat 127)
            velocity := BitVec.ofNat 7 (min velocity.toNat 127)
            waveform := s.settings.waveform
            phase := 0
            inc := noteIncrement s.cfg (BitVec.ofNat 7 (min note.toNat 127)) s.settings.sampleRate
            lfsr := if s.cfg.lfsrReseedOnNoteOn then 0x0000ACE1 else v.lfsr
            env := { state := .attack, counter := 0 } } }) ∧
  (∀ (s : State) (velocity note : BitVec 8) (v : Voice),
    s.halted = false → s.voices[0]? = some v →
    (∀ j u, j < s.settings.voiceCount.toNat → s.voices[j]? = some u → u.active = true) →
    exec (.noteOn 0 velocity note) s = .next
      { s with
        voices := s.voices.set 0
          { active := true
            note := BitVec.ofNat 7 (min note.toNat 127)
            velocity := BitVec.ofNat 7 (min velocity.toNat 127)
            waveform := s.settings.waveform
            phase := 0
            inc := noteIncrement s.cfg (BitVec.ofNat 7 (min note.toNat 127)) s.settings.sampleRate
            lfsr := if s.cfg.lfsrReseedOnNoteOn then 0x0000ACE1 else v.lfsr
            env := { state := .attack, counter := 0 } } })

/-- 42_voice.md R168, R170: NOTE_OFF releases every active voice below VOICE_COUNT that holds the note; ALL_OFF forces
every voice of the bank off; no other field of a voice and no other field of the state changes. -/
def Obligations.NoteOffAndAllOff : Prop :=
  ∀ s : State, s.halted = false →
    (∀ note : BitVec 8, exec (.noteOff 0 0 note) s = .next
      { s with
        voices := s.voices.mapIdx fun k v =>
          if k < s.settings.voiceCount.toNat ∧ v.active = true ∧ v.note.toNat = min note.toNat 127
              ∧ v.env.state ≠ .off then
            { v with env := { state := .release, counter := 0 } }
          else v }) ∧
    exec (.allOff 0 0 0) s = .next
      { s with voices := s.voices.map fun v => { v with active := false, env := { state := .off, counter := 0 } } }

/-- 42_voice.md R141 to R143: the increment of a note is 440 × pow2F((n - 69) / 12) / SR, and 65536 times that floored
when PHASE_REPR is Q16_16; the ten notes 69 ± 12k have exactly the frequencies 440 · 2^(±k) (in units of 2^-149). -/
def Obligations.NoteFrequencyAndIncrement : Prop :=
  (∀ (cfg : Config) (n : BitVec 7) (rate : Word), cfg.phaseRepr = .float →
    noteIncrement cfg n rate
      = fDiv (fMul (fOfNat 440) (pow2F (fDiv (fOfInt ((n.toNat : Int) - 69)) (fOfNat 12)))) (fOfNat rate.toNat)) ∧
  (∀ (cfg : Config) (n : BitVec 7) (rate : Word), cfg.phaseRepr = .q16 →
    let x := fMul (fDiv (fMul (fOfNat 440) (pow2F (fDiv (fOfInt ((n.toNat : Int) - 69)) (fOfNat 12))))
      (fOfNat rate.toNat)) (fOfNat 65536)
    0 ≤ fFloor x → fFloor x < 2 ^ 32 → ((noteIncrement cfg n rate).toNat : Int) = fFloor x) ∧
  ∀ k : Fin 10, fUnits (noteFreq (BitVec.ofNat 7 (9 + 12 * k))) * 2 ^ 5 = 440 * 2 ^ 149 * 2 ^ (k : Nat)

/-! ### The LFO's, the filter's and the EQ's commands -/

/-- 43_lfo.md R186 to R188: each enable command writes its bit and nothing else; lfo.phase is kept. 43_lfo.md R189,
R190: SET_LFO_RATE stores the rate clamped to [0.1, 20] and recomputes LFO_INC; SET_LFO_DEPTH stores the depth clamped
to [0, 100]. -/
def Obligations.LfoSettingsEffect : Prop :=
  (∀ (s : State) (on : Bool), s.halted = false →
    exec (.setLfoEnable 0 0 (enableField on)) s
      = .next { s with settings := { s.settings with lfoEnable := on } } ∧
    exec (.setLfoVibrato 0 0 (enableField on)) s
      = .next { s with settings := { s.settings with lfoVibrato := on } } ∧
    exec (.setLfoTremolo 0 0 (enableField on)) s
      = .next { s with settings := { s.settings with lfoTremolo := on } }) ∧
  (∀ (s : State) (x : Word), s.halted = false → fIsNaN x = false →
    exec (.setLfoRate 0 x) s = .next
      { s with
        settings := { s.settings with lfoRate := clampF x (fDecimal 1 10) (fOfNat 20) }
        derived :=
          { s.derived with
            lfoInc := fDiv (clampF x (fDecimal 1 10) (fOfNat 20)) (fOfNat s.settings.sampleRate.toNat) } } ∧
    exec (.setLfoDepth 0 x) s
      = .next { s with settings := { s.settings with lfoDepth := clampF x (fOfNat 0) (fOfNat 100) } })

/-- 44_filter_eq.md R209, R213: SET_FILTER_ENABLE and SET_EQ_ENABLE write their bit, and clear their stage's state
exactly at a change from 0 to 1. -/
def Obligations.FilterAndEqEnableEffect : Prop :=
  ∀ (s : State) (on : Bool), s.halted = false →
    exec (.setFilterEnable 0 0 (enableField on)) s = .next
      { s with
        settings := { s.settings with filterEnable := on }
        svf := if on = true ∧ s.settings.filterEnable = false then { low := 0, band := 0 } else s.svf } ∧
    exec (.setEqEnable 0 0 (enableField on)) s = .next
      { s with
        settings := { s.settings with eqEnable := on }
        eq := if on = true ∧ s.settings.eqEnable = false then
            Vector.replicate 3 { x1 := 0, x2 := 0, y1 := 0, y2 := 0 }
          else s.eq }

/-- 44_filter_eq.md R210 to R212, R195: SET_FILTER_TYPE stores the code clamped to 2; SET_FILTER_CUTOFF and
SET_FILTER_RESONANCE store the clamped value and recompute FILTER_F and FILTER_Q by the pseudocode of R195. -/
def Obligations.FilterSettingsEffect : Prop :=
  ∀ s : State, s.halted = false →
    (∀ code : BitVec 8, ∃ type : FilterType, (filterTypeCode type).toNat = min code.toNat 2 ∧
      exec (.setFilterType 0 0 code) s = .next { s with settings := { s.settings with filterType := type } }) ∧
    ∀ x : Word, fIsNaN x = false →
      let cap := fun f => if fLt (fDecimal 199 100) f then fDecimal 199 100 else f
      let floor := fun q => if fLt q (fDecimal 1 100) then fDecimal 1 100 else q
      let sr := fOfNat s.settings.sampleRate.toNat
      let cutoff := clampF x (fOfNat 20) (fOfNat 20000)
      let resonance := clampF x (fOfNat 0) (fDecimal 99 100)
      exec (.setFilterCutoff 0 x) s = .next
        { s with
          settings := { s.settings with filterCutoff := cutoff }
          derived :=
            { s.derived with
              filterF := cap (fMul (fOfNat 2) (sinF (fDiv (fMul piF cutoff) sr)))
              filterQ := floor (fSub (fOfNat 1) s.settings.filterResonance) } } ∧
      exec (.setFilterResonance 0 x) s = .next
        { s with
          settings := { s.settings with filterResonance := resonance }
          derived :=
            { s.derived with
              filterF := cap (fMul (fOfNat 2) (sinF (fDiv (fMul piF s.settings.filterCutoff) sr)))
              filterQ := floor (fSub (fOfNat 1) resonance) } }

/-- 44_filter_eq.md R214 to R216: each gain command stores the gain clamped to [-12, 12] and recomputes the
coefficients of its own band alone, at 120, 1000 and 8000 Hz. 44_filter_eq.md R202, R203: zero gain, +0 or -0, has the
identity coefficients; any other gain the cookbook's, where b1 and a1 are the same value. -/
def Obligations.EqGainsAndCoefficients : Prop :=
  (∀ (s : State) (x : Word), s.halted = false → fIsNaN x = false →
    let gain := clampF x (fOfInt (-12)) (fOfNat 12)
    let coef := s.derived.eqCoef
    let rate := s.settings.sampleRate
    exec (.setEqBassGain 0 x) s = .next
      { s with
        settings := { s.settings with eqBassGain := gain }
        derived := { s.derived with eqCoef := #v[bandCoefOf 120 gain rate, coef[1], coef[2]] } } ∧
    exec (.setEqMidGain 0 x) s = .next
      { s with
        settings := { s.settings with eqMidGain := gain }
        derived := { s.derived with eqCoef := #v[coef[0], bandCoefOf 1000 gain rate, coef[2]] } } ∧
    exec (.setEqTrebleGain 0 x) s = .next
      { s with
        settings := { s.settings with eqTrebleGain := gain }
        derived := { s.derived with eqCoef := #v[coef[0], coef[1], bandCoefOf 8000 gain rate] } }) ∧
  (∀ (centre : Nat) (gain : F32) (rate : Word),
    (fMagnitude gain = 0 → bandCoefOf centre gain rate
      = { b0 := 0x3F800000, b1 := 0, b2 := 0, a1 := 0, a2 := 0 }) ∧
    (fMagnitude gain ≠ 0 → fIsNaN gain = false →
      let a := pow10F (fDiv gain (fOfNat 40))
      let w0 := fDiv (fMul twoPiF (fOfNat centre)) (fOfNat rate.toNat)
      let alpha := fDiv (sinF w0) (fMul (fOfNat 2) (fDecimal 707 1000))
      let a0 := fAdd (fOfNat 1) (fDiv alpha a)
      bandCoefOf centre gain rate
        = { b0 := fDiv (fAdd (fOfNat 1) (fMul alpha a)) a0
            b1 := fDiv (fMul (fOfInt (-2)) (cosF w0)) a0
            b2 := fDiv (fSub (fOfNat 1) (fMul alpha a)) a0
            a1 := fDiv (fMul (fOfInt (-2)) (cosF w0)) a0
            a2 := fDiv (fSub (fOfNat 1) (fDiv alpha a)) a0 }))

/-! ### The reverb's and the delay's commands -/

/-- 45_reverb_delay.md R239 to R241, R220: the three fractions are clamped to [0, 1]; a new room size recomputes
REVERB_FB. 45_reverb_delay.md R243 to R245, R233: time, feedback and mix are clamped; a new time recomputes DELAY_D;
the buffer is kept. -/
def Obligations.EffectSettings : Prop :=
  (∀ (s : State) (x : Word), s.halted = false → fIsNaN x = false →
    let y := clampF x (fOfNat 0) (fOfNat 1)
    exec (.setReverbRoomSize 0 x) s = .next
      { s with
        settings := { s.settings with reverbRoomSize := y }
        derived := { s.derived with reverbFb := fAdd (fDecimal 1 2) (fMul y (fDecimal 45 100)) } } ∧
    exec (.setReverbDamping 0 x) s = .next { s with settings := { s.settings with reverbDamping := y } } ∧
    exec (.setReverbWet 0 x) s = .next { s with settings := { s.settings with reverbWet := y } }) ∧
  (∀ (s : State) (x : Word), s.halted = false → fIsNaN x = false →
    let time := clampF x (fOfNat 10) (fOfNat 1000)
    exec (.setDelayTime 0 x) s = .next
      { s with
        settings := { s.settings with delayTime := time }
        derived := { s.derived with delayD := delayDOf time s.settings.sampleRate s.derived.delayN } } ∧
    exec (.setDelayFeedback 0 x) s
      = .next { s with settings := { s.settings with delayFeedback := clampF x (fOfNat 0) (fOfNat 90) } } ∧
    exec (.setDelayMix 0 x) s
      = .next { s with settings := { s.settings with delayMix := clampF x (fOfNat 0) (fOfNat 100) } })

/-- 45_reverb_delay.md R238, R222 to R224: enabling a disabled reverb that fits reserves and zero-fills one block of
the six lengths, with indices and damping stores 0; one that does not fit records code 5 and changes nothing else;
disabling an enabled one returns its words; anything else changes nothing. The block lies at word 0 (the model's
choice, log entry 9); every word outside it reads as before. That a disabled reverb keeps its words' contents, base,
lengths, indices and damping stores is the model's choice (log entries 10 and 11): R223 says that the contents are
lost. So is it that SCALED lengths and their sum neither wrap nor saturate above 2^32 - 1 (log entry 26). -/
def Obligations.SetReverbEnableEffect : Prop :=
  ∀ s : State, s.halted = false →
    let lengths := reverbLengths s.cfg s.settings.sampleRate
    let need := lengths.toList.sum
    (s.settings.reverbEnable = false → need ≤ s.pool.free.toNat →
      ∃ mem, exec (.setReverbEnable 0 0 1) s = .next
        { s with
          settings := { s.settings with reverbEnable := true }
          pool :=
            { s.pool with
              mem := mem
              free := s.pool.free - BitVec.ofNat 32 need
              rev := { allocated := true, base := 0, len := lengths.map (BitVec.ofNat 32), idx := Vector.replicate 6 0,
                       fs := Vector.replicate 4 0 } } } ∧
        ∀ a, readCell mem a = if a < need then 0 else readCell s.pool.mem a) ∧
    (s.settings.reverbEnable = false → s.pool.free.toNat < need →
      exec (.setReverbEnable 0 0 1) s = .next (s.record .reverbAlloc)) ∧
    (s.settings.reverbEnable = true → exec (.setReverbEnable 0 0 0) s = .next
      { s with
        settings := { s.settings with reverbEnable := false }
        pool :=
          { s.pool with
            free := s.pool.free + BitVec.ofNat 32 (s.pool.rev.len.toList.map BitVec.toNat).sum
            rev := { s.pool.rev with allocated := false } } }) ∧
    exec (.setReverbEnable 0 0 (enableField s.settings.reverbEnable)) s = .next s

/-- 45_reverb_delay.md R242, R234, R235: enabling a disabled delay that fits reserves DELAY_N zero-filled words; one
that does not fit records code 6 and changes nothing else; disabling an enabled one returns its words; anything else
changes nothing. The words lie at the top of buffer memory (the model's choice, log entry 9); every word outside them
reads as before. That a disabled delay keeps its words' contents and its base is the model's choice (log entries 10 and
11): R235 says neither. -/
def Obligations.SetDelayEnableEffect : Prop :=
  ∀ s : State, s.halted = false →
    let need := s.derived.delayN
    let base := s.cfg.memWords - need.toNat
    (s.settings.delayEnable = false → need.toNat ≤ s.pool.free.toNat →
      ∃ mem, exec (.setDelayEnable 0 0 1) s = .next
        { s with
          settings := { s.settings with delayEnable := true }
          pool :=
            { s.pool with
              mem := mem
              free := s.pool.free - need
              dly := { allocated := true, base := BitVec.ofNat 32 base, size := need, wp := 0 } } } ∧
        ∀ a, readCell mem a = if base ≤ a ∧ a < base + need.toNat then 0 else readCell s.pool.mem a) ∧
    (s.settings.delayEnable = false → s.pool.free.toNat < need.toNat →
      exec (.setDelayEnable 0 0 1) s = .next (s.record .delayAlloc)) ∧
    (s.settings.delayEnable = true → exec (.setDelayEnable 0 0 0) s = .next
      { s with
        settings := { s.settings with delayEnable := false }
        pool :=
          { s.pool with
            free := s.pool.free + s.pool.dly.size
            dly := { s.pool.dly with allocated := false, size := 0, wp := 0 } } }) ∧
    exec (.setDelayEnable 0 0 (enableField s.settings.delayEnable)) s = .next s

/-- 45_reverb_delay.md R221: REVERB_LEN in both modes; 20_memory.md R73: FIXED needs 5934 words. The SCALED clause holds
for every rate and REVERB_REF_RATE: that a quotient above the u32 of 10_state.md R24 neither wraps nor saturates is the
model's choice (DESIGN CHOICE, unsafe, log entry 26), no rule of the spec. 45_reverb_delay.md R233: DELAY_D is the floor of time × SR / 1000, product and quotient rounded to F, held between 1 and DELAY_N. -/
def Obligations.BufferLengths : Prop :=
  (∀ (cfg : Config) (rate : Word),
    (cfg.reverbLenMode = .fixed → (reverbLengths cfg rate).toList = [1116, 1188, 1277, 1356, 556, 441] ∧
      (reverbLengths cfg rate).toList.sum = 5934) ∧
    (cfg.reverbLenMode = .scaled → (reverbLengths cfg rate).toList
      = [1116, 1188, 1277, 1356, 556, 441].map fun n => max 1 (n * rate.toNat / cfg.reverbRefRate))) ∧
  (∀ (time : F32) (rate delayN : Word), 1 ≤ delayN.toNat →
    ((delayDOf time rate delayN).toNat : Int)
      = min (max (fFloor (fDiv (fMul time (fOfNat rate.toNat)) (fOfNat 1000))) 1) delayN.toNat)

/-! ### TICK -/

/-- 46_mixer.md R250 to R257 with the reverb and the delay disabled: the LFO's values are taken once, every active
voice below VOICE_COUNT gives one sample, those still active after it are averaged and scaled, the filter and the EQ
run if enabled, one frame is emitted and SAMPLE_COUNT goes up by one; nothing else changes. 46_mixer.md R250: with no
voice sounding and every effect disabled the frame is 0. -/
def Obligations.TickWithoutBuffersEffect : Prop :=
  (∀ s : State, s.halted = false → s.settings.reverbEnable = false → s.settings.delayEnable = false →
    let lfo := lfoStep s.cfg s.settings s.derived.lfoInc s.lfoPhase
    let sample := voiceGetSample s.cfg s.settings.waveform lfo.vib lfo.trem
    let sounding := (s.voices.take s.settings.voiceCount.toNat).filter fun v => v.active && (sample v).2.active
    let sum := (sounding.map fun v => (sample v).1.toInt).sum
    let mixed := if sounding.length > 1 then fDiv (fOfInt sum) (fOfNat sounding.length) else fOfInt sum
    let scaled := fMul mixed (fDiv (fOfNat s.settings.masterVolume.toNat) (fOfNat 255))
    let filtered := if s.settings.filterEnable then
      svfRun s.settings.filterType s.derived.filterF s.derived.filterQ scaled s.svf else (scaled, s.svf)
    let equalised := if s.settings.eqEnable then eqRun s.derived.eqCoef filtered.1 s.eq else (filtered.1, s.eq)
    let out := toInt16 equalised.1
    exec (.tick 0 0 0) s = .next
      { s with
        lfoPhase := lfo.phase
        voices := s.voices.mapIdx fun k v =>
          if k < s.settings.voiceCount.toNat ∧ v.active = true then (sample v).2 else v
        svf := filtered.2
        eq := equalised.2
        sampleCount := s.sampleCount + 1
        frames := s.frames ++ [match s.cfg.backend with
          | .digitalStereo => .stereo out out
          | .analogMono => .mono out] }) ∧
  (∀ s : State, s.halted = false → (∀ v ∈ s.voices, v.active = false) →
    s.settings.filterEnable = false → s.settings.eqEnable = false → s.settings.reverbEnable = false →
    s.settings.delayEnable = false →
    ∃ t, exec (.tick 0 0 0) s = .next t ∧ t.voices = s.voices ∧
      t.frames = s.frames ++ [match s.cfg.backend with | .digitalStereo => .stereo 0 0 | .analogMono => .mono 0])

/-- 46_mixer.md R250 to R257, R260: with the buffers as every run keeps them a TICK completes whatever effects are
enabled: the voices as in the statement above, the mixed and scaled level through the filter, the EQ, the reverb and
the delay in this order, each only if enabled, one frame; of buffer memory it changes only the word at the index of
each of the six reverb buffers and the word at the delay's write position. -/
def Obligations.TickCompletes : Prop :=
  ∀ s : State, s.halted = false → isInstance s.cfg = true → buffersOk s = true →
    let lfo := lfoStep s.cfg s.settings s.derived.lfoInc s.lfoPhase
    let sample := voiceGetSample s.cfg s.settings.waveform lfo.vib lfo.trem
    let sounding := (s.voices.take s.settings.voiceCount.toNat).filter fun v => v.active && (sample v).2.active
    let sum := (sounding.map fun v => (sample v).1.toInt).sum
    let mixed := if sounding.length > 1 then fDiv (fOfInt sum) (fOfNat sounding.length) else fOfInt sum
    let scaled := fMul mixed (fDiv (fOfNat s.settings.masterVolume.toNat) (fOfNat 255))
    let filtered := if s.settings.filterEnable then
      svfRun s.settings.filterType s.derived.filterF s.derived.filterQ scaled s.svf else (scaled, s.svf)
    let equalised := if s.settings.eqEnable then eqRun s.derived.eqCoef filtered.1 s.eq else (filtered.1, s.eq)
    ∃ reverberated delayed : F32 × Pool,
      (if s.settings.reverbEnable then
          reverbRun s.cfg s.settings s.derived.reverbFb equalised.1 s.pool = .ok reverberated
        else reverberated = (equalised.1, s.pool)) ∧
      (if s.settings.delayEnable then
          delayRun s.cfg s.settings s.derived.delayD reverberated.1 reverberated.2 = .ok delayed
        else delayed = reverberated) ∧
      exec (.tick 0 0 0) s = .next
        { s with
          lfoPhase := lfo.phase
          voices := s.voices.mapIdx fun k v =>
            if k < s.settings.voiceCount.toNat ∧ v.active = true then (sample v).2 else v
          svf := filtered.2
          eq := equalised.2
          pool := delayed.2
          sampleCount := s.sampleCount + 1
          frames := s.frames ++ [match s.cfg.backend with
            | .digitalStereo => .stereo (toInt16 delayed.1) (toInt16 delayed.1)
            | .analogMono => .mono (toInt16 delayed.1)] } ∧
      delayed.2.free = s.pool.free ∧
      (s.settings.reverbEnable = false → delayed.2.rev = s.pool.rev) ∧
      (s.settings.delayEnable = false → delayed.2.dly = s.pool.dly) ∧
      ∀ a, (s.settings.reverbEnable = true → ∀ j : Fin 6, a ≠ bufferBase s.pool.rev j + s.pool.rev.idx[j].toNat) →
        (s.settings.delayEnable = true → a ≠ s.pool.dly.base.toNat + s.pool.dly.wp.toNat) →
        readCell delayed.2.mem a = readCell s.pool.mem a

/-! ### The envelope -/

/-- 41_envelope.md R126, R127: envNoteOn goes to (ATTACK, 0) from every state; envNoteOff goes to (RELEASE, 0) from
every state but OFF, which it keeps. 41_envelope.md R128 to R134: the values of one envGet call with c the incremented
counter: REAL by the rounded operations of R129 to R132, INTEGER by the integer divisions of R134 (c no further than
the branch lets it go), SUSTAIN always S, OFF always 0. -/
def Obligations.EnvelopeOperations : Prop :=
  ((∀ e : Env, envNoteOn e = { state := .attack, counter := 0 }) ∧
  (∀ e : Env, e.state ≠ .off → envNoteOff e = { state := .release, counter := 0 }) ∧
  ∀ e : Env, e.state = .off → envNoteOff e = e) ∧
  (∀ (cfg : Config) (n : Word),
    let c := (n + 1).toNat
    let value := fun st => (envGet cfg { state := st, counter := n }).1
    let s := cfg.sustainLevel
    value .sustain = fOfNat s ∧ value .off = fOfNat 0 ∧ (cfg.releaseSamples < c → value .release = fOfNat 0) ∧
    (cfg.envArith = .real →
      (let v := fDiv (fMul (fOfNat c) (fOfNat 255)) (fOfNat cfg.attackSamples)
       value .attack = if fLt (fOfNat 255) v then fOfNat 255 else v) ∧
      value .decay = fSub (fOfNat 255) (fDiv (fMul (fOfNat (255 - s)) (fOfNat c)) (fOfNat cfg.decaySamples)) ∧
      (c ≤ cfg.releaseSamples →
        value .release = fSub (fOfNat s) (fDiv (fMul (fOfNat s) (fOfNat c)) (fOfNat cfg.releaseSamples)))) ∧
    (cfg.envArith = .integer → s ≤ 255 →
      value .attack = fOfNat (min 255 (c * 255 / cfg.attackSamples)) ∧
      (1 ≤ cfg.decaySamples → c ≤ cfg.decaySamples →
        value .decay = fOfNat (255 - (255 - s) * c / cfg.decaySamples)) ∧
      (1 ≤ cfg.releaseSamples → c ≤ cfg.releaseSamples →
        value .release = fOfNat (s - s * c / cfg.releaseSamples))))

/-- 41_envelope.md R137: calls 1..A after a note-on are ATTACK, the next D are DECAY, later ones SUSTAIN; after a
note-off from a state other than OFF calls 1..R are RELEASE and call R + 1 reaches OFF. -/
def Obligations.NoteLifetime : Prop :=
  ∀ cfg : Config, isInstance cfg = true →
    let call := fun e => (envGet cfg e).2
    let a := cfg.attackSamples
    let d := cfg.decaySamples
    let r := cfg.releaseSamples
    (∀ (e : Env) (n : Nat), call^[n] (envNoteOn e)
      = if n < a then { state := .attack, counter := BitVec.ofNat 32 n }
        else if n < a + d then { state := .decay, counter := BitVec.ofNat 32 (n - a) }
        else { state := .sustain, counter := BitVec.ofNat 32 (n - a - d) }) ∧
    ∀ (e : Env) (n : Nat), e.state ≠ .off → n ≤ r + 1 → call^[n] (envNoteOff e)
      = if n ≤ r then { state := .release, counter := BitVec.ofNat 32 n } else { state := .off, counter := 0 }

/-- 41_envelope.md R129, R130, R132: the boundary values of the REAL ramps are exact where their products are: 255 at
c = A, S at c = D, 0 at c = R. The premises on the products are the rules' own for DECAY and RELEASE; for ATTACK the
rule claims 255 at every A, which its own pseudocode contradicts for most A above 2^24 / 255 (log entry 24). -/
def Obligations.EnvelopeBoundaryValues : Prop :=
  ∀ cfg : Config, isInstance cfg = true →
    (255 * cfg.attackSamples ≤ 2 ^ 24 → attackReal cfg (BitVec.ofNat 32 cfg.attackSamples) = fOfNat 255) ∧
    ((255 - cfg.sustainLevel) * cfg.decaySamples ≤ 2 ^ 24 →
      decayReal cfg (BitVec.ofNat 32 cfg.decaySamples) = fOfNat cfg.sustainLevel) ∧
    (cfg.sustainLevel * cfg.releaseSamples ≤ 2 ^ 24 →
      releaseReal cfg (BitVec.ofNat 32 cfg.releaseSamples) = fOfNat 0)

/-- 41_envelope.md R136: every value of envGet lies in [0, 255], in a state whose counter is inside its phase. The
premises on the products are the model's: without them R136 fails of the rules' own pseudocode (log entry 24). -/
def Obligations.EnvelopeInRange : Prop :=
  ∀ (cfg : Config) (e : Env), isInstance cfg = true → envInPhase cfg e = true →
    (cfg.envArith = .real → (255 - cfg.sustainLevel) * cfg.decaySamples ≤ 2 ^ 24) →
    (cfg.envArith = .real → cfg.sustainLevel * cfg.releaseSamples ≤ 2 ^ 24) →
    fInRange (fOfNat 0) (envGet cfg e).1 (fOfNat 255) = true

/-! ### One voice -/

/-- 42_voice.md R150, R163, R164: an inactive voice returns 0 and changes nothing; the call on which the envelope goes
OFF returns 0, clears active and leaves phase, increment, LFSR and waveform; any other call keeps the voice active,
returns the sample of R160, advances the phase, steps the LFSR exactly when the waveform used is NOISE and leaves
note, velocity and increment. R152 to R157: the raw samples of a phase p, the TABLE sine of a phase in [0, 1). -/
def Obligations.VoiceSampleEffect : Prop :=
  (∀ (cfg : Config) (setting : Waveform) (vib trem : F32) (v : Voice),
    let r := voiceGetSample cfg setting vib trem v
    let waveform := if cfg.waveformLatch = .live then setting else v.waveform
    let raw := (rawSample cfg waveform v.lfsr (wavePhase cfg v.phase)).1
    let e := (envGet cfg v.env).1
    let x := fMul (fMul raw (fDiv e (fOfNat 255))) (fDiv (fOfNat v.velocity.toNat) (fOfNat 127))
    (v.active = false → r = (0, v)) ∧
    (v.active = true → (envGet cfg v.env).2.state = .off →
      r = (0, { v with active := false, env := (envGet cfg v.env).2 })) ∧
    (v.active = true → (envGet cfg v.env).2.state ≠ .off →
      r = (toInt16 (if fNe trem (fOfNat 1) then fMul x trem else x),
        { v with
          waveform := waveform
          phase := advancePhase cfg v.phase (modulatedIncrement cfg v.inc vib)
          lfsr := if waveform = .noise then lfsrStep cfg v.lfsr else v.lfsr
          env := (envGet cfg v.env).2 }))) ∧
  ∀ (cfg : Config) (lfsr : Word) (p : F32),
    (cfg.sineMode = .table → fInUnit p = true →
      let pos := fMul p (fOfNat 512)
      let i := (fFloor pos).toNat
      let a := sineRom i
      let b := sineRom ((i + 1) % 512)
      i < 512 ∧ (rawSample cfg .sine lfsr p).1
        = fMul (fOfNat 32767) (fAdd a (fMul (fSub b a) (fSub pos (fOfNat i))))) ∧
    (cfg.sineMode = .direct → (rawSample cfg .sine lfsr p).1 = fMul (fOfNat 32767) (sinF (fMul twoPiF p))) ∧
    (rawSample cfg .square lfsr p).1 = (if fLt p (fDecimal 1 2) then fOfNat 32767 else fOfInt (-32767)) ∧
    (rawSample cfg .sawtooth lfsr p).1 = fSub (fMul (fOfNat 65534) p) (fOfNat 32767) ∧
    (rawSample cfg .triangle lfsr p).1 = (if fLt p (fDecimal 1 2) then fSub (fMul (fOfNat 131068) p) (fOfNat 32767)
      else fSub (fOfNat 98301) (fMul (fOfNat 131068) p)) ∧
    (rawSample cfg .noise lfsr p).1 = fOfInt (match cfg.noiseReduce with
      | .low16 => ((lfsrStep cfg lfsr).extractLsb' 0 16).toInt
      | .high16 => ((lfsrStep cfg lfsr).extractLsb' 16 16).toInt)

/-- 42_voice.md R158: lfsrStep is the form that LFSR_FORM names; both forms bit by bit; neither leaves the all-zero state
and neither reaches it from another. The two examples of the rule. -/
def Obligations.LfsrStep : Prop :=
  (∀ (st : Word) (i : Nat), i < 32 →
    (galoisStep st).getLsbD i
      = ((decide (i < 31) && st.getLsbD (i + 1)) ^^ (st.getLsbD 0 && decide (i = 0 ∨ i = 2 ∨ i = 22 ∨ i = 31)))) ∧
  (∀ (st : Word) (i : Nat), i < 32 →
    (fibonacciStep st).getLsbD i
      = if i = 31 then st.getLsbD 0 ^^ st.getLsbD 2 ^^ st.getLsbD 22 ^^ st.getLsbD 31 else st.getLsbD (i + 1)) ∧
  (∀ (cfg : Config) (st : Word), (cfg.lfsrForm = .galois → lfsrStep cfg st = galoisStep st) ∧
    (cfg.lfsrForm = .fibonacci → lfsrStep cfg st = fibonacciStep st) ∧ (lfsrStep cfg st = 0 ↔ st = 0)) ∧
  galoisStep 0x0000ACE1 = 0x80405675 ∧ galoisStep 0x80405675 = 0xC0602B3F ∧
  fibonacciStep 0x0000ACE1 = 0x80005670 ∧ fibonacciStep 0x80005670 = 0xC0002B38

/-- 42_voice.md R145, R146: the waveform phase. R147, R148: the modulated increment, in Q16_16 where the floor is a u32
(elsewhere a free value, log entry 2). R149: the advanced phase. Q16_16: a u32 below 65536. FLOAT: the sum, less the
whole number of cycles where it is finite and 1 or more; in [0, 1) again, from a phase in [0, 1) and an increment that is
not negative and below 2^23. -/
def Obligations.PhaseStaysInCycle : Prop :=
  (∀ (cfg : Config) (phase : Word), (cfg.phaseRepr = .float → wavePhase cfg phase = phase) ∧
    (cfg.phaseRepr = .q16 → wavePhase cfg phase = fDiv (fOfNat phase.toNat) (fOfNat 65536) ∧
      (phase.toNat < 65536 → fInUnit (wavePhase cfg phase) = true ∧ fValue (wavePhase cfg phase) = phase.toNat / 65536))) ∧
  (∀ (cfg : Config) (inc : Word) (vib : F32), (fNe vib (fOfNat 0) = false → modulatedIncrement cfg inc vib = inc) ∧
    (fNe vib (fOfNat 0) = true →
      (cfg.phaseRepr = .float → modulatedIncrement cfg inc vib = fMul inc (fAdd (fOfNat 1) vib)) ∧
      (cfg.phaseRepr = .q16 →
        let x := fMul (fOfNat inc.toNat) (fAdd (fOfNat 1) vib)
        fIsFinite x = true → 0 ≤ ⌊fValue x⌋ → ⌊fValue x⌋ < 2 ^ 32 →
          ((modulatedIncrement cfg inc vib).toNat : Int) = ⌊fValue x⌋))) ∧
  (∀ (cfg : Config) (phase inc : Word), cfg.phaseRepr = .float →
    let ph := fAdd phase inc
    (fLe (fOfNat 1) ph = false → advancePhase cfg phase inc = ph) ∧
    (fLe (fOfNat 1) ph = true → fIsFinite ph = true →
      advancePhase cfg phase inc = fSub ph (fOfInt ⌊fValue ph⌋))) ∧
  (∀ (cfg : Config) (phase inc : Word), cfg.phaseRepr = .q16 →
    (advancePhase cfg phase inc).toNat = (phase.toNat + inc.toNat) % 65536) ∧
  ∀ (cfg : Config) (phase inc : Word), cfg.phaseRepr = .float → fInUnit phase = true →
    fLe (fOfNat 0) inc = true → fLt inc (fOfNat (2 ^ 23)) = true → fInUnit (advancePhase cfg phase inc) = true

/-- 42_voice.md R162: for a phase in [0, 1) the raw square, sawtooth and triangle lie in [-FS, FS], and so does the raw
sine, of the table for a phase in [0, 1) and direct for every phase; the raw noise value is the i16 of R159; and scaling
by an envelope value in [0, 255], a velocity and a tremolo in [0, 1] never makes a sample larger in magnitude. -/
def Obligations.SampleRange : Prop :=
  (∀ p : F32, fInUnit p = true → ∀ raw ∈ [squareSample p, sawtoothSample p, triangleSample p],
    fInRange (fOfInt (-32767)) raw (fOfNat 32767) = true) ∧
  (∀ (cfg : Config) (lfsr : Word) (p : F32), cfg.sineMode = .direct ∨ fInUnit p = true →
    fInRange (fOfInt (-32767)) (rawSample cfg .sine lfsr p).1 (fOfNat 32767) = true) ∧
  (∀ (cfg : Config) (lfsr : Word) (p : F32), ∃ n : BitVec 16,
    (rawSample cfg .noise lfsr p).1 = fOfInt n.toInt ∧ fUnits (fOfInt n.toInt) = n.toInt * fOneUnits) ∧
  ∀ (raw e trem : F32) (velocity : BitVec 7), fIsFinite raw = true →
    fInRange (fOfNat 0) e (fOfNat 255) = true → fInRange (fOfNat 0) trem (fOfNat 1) = true →
    fMagnitude (scaleSample raw e velocity trem) ≤ fMagnitude raw

/-- 42_voice.md R160, 46_mixer.md R254, R255: the factors that are exactly 1: envelope 255, velocity 127 and tremolo 1
leave a finite sample as it is; MASTER_VOLUME 255 leaves the mix; n equal samples average to that sample. -/
def Obligations.UnityFactors : Prop :=
  (∀ raw : F32, fIsFinite raw = true → scaleSample raw (fOfNat 255) 127 (fOfNat 1) = raw) ∧
  (∀ m : F32, fIsFinite m = true → scaleVolume 255 m = m) ∧
  ∀ (n : Nat) (o : BitVec 16), 1 ≤ n → n ≤ 32 → mixAverage (List.replicate n o.toInt) = fOfInt o.toInt

/-- 20_memory.md R75: words 0, 128, 256 and 384 of the sine ROM, its antisymmetry, and that every word lies in [-1,
1]. -/
def Obligations.SineRomShape : Prop :=
  sineRom 0 = 0 ∧ sineRom 128 = fOfNat 1 ∧ sineRom 256 = 0 ∧ sineRom 384 = fOfInt (-1) ∧
  (∀ i, 1 ≤ i → i ≤ 255 → sineRom (512 - i) = fNeg (sineRom i)) ∧
  ∀ i, i < 512 → fInRange (fOfInt (-1)) (sineRom i) (fOfNat 1) = true

/-! ### The LFO -/

/-- 43_lfo.md R181 to R185: disabled, (0, 1) and no call; enabled, one call whose value serves both, or a call for each
switch that is on, each call giving the sine of the phase before it and advancing the phase; vib and trem by R183's
formulas; vib in [-0.02, 0.02] and trem in [0, 1], for a depth in [0, 100] and any settings of the two switches and of
the calls per sample. -/
def Obligations.LfoRanges : Prop :=
  ∀ (cfg : Config) (x : Settings) (inc phase : F32),
    (x.lfoEnable = false → lfoStep cfg x inc phase = { vib := 0, trem := 0x3F800000, phase := phase }) ∧
    (x.lfoEnable = true → fInRange (fOfNat 0) x.lfoDepth (fOfNat 100) = true →
      fInRange (fNeg (fDecimal 2 100)) (lfoStep cfg x inc phase).vib (fDecimal 2 100) = true ∧
      fInRange (fOfNat 0) (lfoStep cfg x inc phase).trem (fOfNat 1) = true) ∧
    (x.lfoEnable = true →
      let d := fDiv x.lfoDepth (fOfNat 100)
      let value := fun p => sinF (fMul p twoPiF)
      let next := fun p =>
        let ph := fAdd p inc
        if fLe (fOfNat 1) ph then fSub ph (fOfInt (fFloor ph)) else ph
      let vib := fun p => if x.lfoVibrato then fMul (fMul (value p) d) (fDecimal 2 100) else fOfNat 0
      let trem := fun p => if x.lfoTremolo then
        fSub (fOfNat 1) (fMul d (fDiv (fSub (fOfNat 1) (value p)) (fOfNat 2))) else fOfNat 1
      let between := if x.lfoVibrato then next phase else phase
      (cfg.lfoCallsPerSample = .one →
        lfoStep cfg x inc phase = { vib := vib phase, trem := trem phase, phase := next phase }) ∧
      (cfg.lfoCallsPerSample = .two → lfoStep cfg x inc phase
        = { vib := vib phase, trem := trem between, phase := if x.lfoTremolo then next between else between }))

/-- 10_state.md R28, 43_lfo.md R181: a step keeps lfo.phase in [0, 1). -/
def Obligations.LfoPhaseStaysInUnit : Prop :=
  ∀ s t : State, Inv s → fInUnit s.lfoPhase = true → step s = .next t → fInUnit t.lfoPhase = true

/-! ### The effects -/

/-- 44_filter_eq.md R196: one sample through the filter, its new state and the output of each type. R200: one sample
through one band of the EQ, its sums rounded in the rule's order, and its history after it. R201: the bands in series,
bass, mid, treble. (70_reset_and_hazards.md R321 speaks otherwise of the LOWPASS output: log entry 27.) -/
def Obligations.FilterAndEqSample : Prop :=
  (∀ (f q x : F32) (st : Svf),
    let low := fAdd st.low (fMul f st.band)
    let high := fSub (fSub x low) (fMul q st.band)
    let band := fAdd st.band (fMul f high)
    svfRun .lowpass f q x st = (low, { low := low, band := band }) ∧
    svfRun .highpass f q x st = (high, { low := low, band := band }) ∧
    svfRun .bandpass f q x st = (band, { low := low, band := band })) ∧
  (∀ (k : BandCoef) (x : F32) (h : EqHistory),
    let y := fSub (fSub (fAdd (fAdd (fMul k.b0 x) (fMul k.b1 h.x1)) (fMul k.b2 h.x2)) (fMul k.a1 h.y1)) (fMul k.a2 h.y2)
    biquadRun k x h = (y, { x1 := x, x2 := h.x1, y1 := y, y2 := h.y1 })) ∧
  ∀ (k : Vector BandCoef 3) (x : F32) (h : Vector EqHistory 3),
    let bass := biquadRun k[0] x h[0]
    let mid := biquadRun k[1] bass.1 h[1]
    let treble := biquadRun k[2] mid.1 h[2]
    eqRun k x h = (treble.1, #v[bass.2, mid.2, treble.2])

/-- 44_filter_eq.md R205, 45_reverb_delay.md R228, R245: what changes no sample (a finite one other than -0): three
zero gains, with finite histories, which stay finite; wet 0, with a finite reverb value; mix 0, with a finite delayed
sample. -/
def Obligations.NeutralEffects : Prop :=
  (∀ (rate : Word) (x : F32) (hs : Vector EqHistory 3), fPlain x = true →
    (∀ h ∈ hs.toList, fIsFinite h.x1 = true ∧ fIsFinite h.x2 = true ∧ fIsFinite h.y1 = true ∧ fIsFinite h.y2 = true) →
    let r := eqRun #v[bandCoefOf 120 0 rate, bandCoefOf 1000 0 rate, bandCoefOf 8000 0 rate] x hs
    r.1 = x ∧ ∀ h ∈ r.2.toList,
      fIsFinite h.x1 = true ∧ fIsFinite h.x2 = true ∧ fIsFinite h.y1 = true ∧ fIsFinite h.y2 = true) ∧
  (∀ x v : F32, fPlain x = true → fIsFinite v = true → reverbBlend 0 x v = x) ∧
  ∀ x dl : F32, fPlain x = true → fIsFinite dl = true → delayBlend 0 x dl = x

/-- 45_reverb_delay.md R236: one sample at any feedback and mix: the delayed sample is read DELAY_D words behind the write
position, the input with the feedback is stored at the write position and nowhere else, the output is the blend, the write
position advances modulo the length, and no other field changes. R236, R237: from an empty line, with feedback 0 and mix
100, the delay gives back its input exactly DELAY_D samples later and nothing else, for every delay from 1 to the line's
length and any number of samples. -/
def Obligations.DelayEchoesExactly : Prop :=
  (∀ (cfg : Config) (x : Settings) (delayD : Word) (p : Pool) (input : F32),
    let n := p.dly.size.toNat
    let base := p.dly.base.toNat
    let wp := p.dly.wp.toNat
    delayD.toNat ≤ n → wp < n → base + n ≤ cfg.memWords → Memory.wf p.mem = true →
    let dl := readCell p.mem (base + (wp + n - delayD.toNat) % n)
    ∃ mem, delayRun cfg x delayD input p
      = .ok (fAdd (fMul input (fDiv (fSub (fOfNat 100) x.delayMix) (fOfNat 100)))
          (fMul dl (fDiv x.delayMix (fOfNat 100))),
        { p with mem := mem, dly := { p.dly with wp := BitVec.ofNat 32 ((wp + 1) % n) } }) ∧
      ∀ b, readCell mem b
        = if b = base + wp then fAdd input (fMul (fDiv x.delayFeedback (fOfNat 100)) dl) else readCell p.mem b) ∧
  ∀ (cfg : Config) (x : Settings) (delayD : Word) (p : Pool) (inputs : List F32),
    x.delayFeedback = fOfNat 0 → x.delayMix = fOfNat 100 →
    1 ≤ delayD.toNat → delayD.toNat ≤ p.dly.size.toNat → p.dly.wp = 0 →
    p.dly.base.toNat + p.dly.size.toNat ≤ cfg.memWords → Memory.wf p.mem = true →
    (∀ i, i < p.dly.size.toNat → readCell p.mem (p.dly.base.toNat + i) = 0) →
    (∀ y ∈ inputs, fPlain y = true) →
    ∃ p', delayRuns cfg x delayD inputs p
      = .ok ((List.replicate delayD.toNat 0 ++ inputs).take inputs.length, p')

/-- 45_reverb_delay.md R225: one comb, its index inside its buffer and the buffer inside buffer memory: the delayed
value is read, the damping store and the buffer word are written by the rule's formulas, the index advances modulo the
length, and no other word, index, store or field changes. R226: the same of an allpass, with its own formulas. R225 to
R227: the whole reverb: the four combs in turn, each on the input, their values summed in order from 0 and divided by 4,
the two allpasses in series, and the blend with the input at any wet. -/
def Obligations.CombAndAllpassEffect : Prop :=
  (∀ (cfg : Config) (fb damp x : F32) (c : Fin 4) (p : Pool),
    let j : Fin 6 := c.castLE (by decide)
    let i := p.rev.idx[j].toNat
    let a := bufferBase p.rev j + i
    i < p.rev.len[j].toNat → a < cfg.memWords → Memory.wf p.mem = true →
    let y := readCell p.mem a
    let store := fAdd (fMul y (fSub (fOfNat 1) damp)) (fMul p.rev.fs[c] damp)
    ∃ mem, combRun cfg fb damp x c p = .ok (y,
        { p with
          mem := mem
          rev :=
            { p.rev with
              fs := p.rev.fs.set c store
              idx := p.rev.idx.set j (BitVec.ofNat 32 ((i + 1) % p.rev.len[j].toNat)) } }) ∧
      ∀ b, readCell mem b = if b = a then fAdd x (fMul store fb) else readCell p.mem b) ∧
  (∀ (cfg : Config) (x : Settings) (fb input : F32) (p : Pool),
    (∀ j : Fin 6, p.rev.idx[j].toNat < p.rev.len[j].toNat ∧
      bufferBase p.rev j + p.rev.idx[j].toNat < cfg.memWords) →
    ∃ c0 c1 c2 c3 a4 a5 : F32 × Pool,
      combRun cfg fb x.reverbDamping input 0 p = .ok c0 ∧ combRun cfg fb x.reverbDamping input 1 c0.2 = .ok c1 ∧
      combRun cfg fb x.reverbDamping input 2 c1.2 = .ok c2 ∧ combRun cfg fb x.reverbDamping input 3 c2.2 = .ok c3 ∧
      allpassRun cfg (fDiv (fAdd (fAdd (fAdd (fAdd (fOfNat 0) c0.1) c1.1) c2.1) c3.1) (fOfNat 4)) 4 c3.2 = .ok a4 ∧
      allpassRun cfg a4.1 5 a4.2 = .ok a5 ∧
      reverbRun cfg x fb input p
        = .ok (fAdd (fMul input (fSub (fOfNat 1) x.reverbWet)) (fMul a5.1 x.reverbWet), a5.2)) ∧
  ∀ (cfg : Config) (v : F32) (j : Fin 6) (p : Pool),
    let i := p.rev.idx[j].toNat
    let a := bufferBase p.rev j + i
    i < p.rev.len[j].toNat → a < cfg.memWords → Memory.wf p.mem = true →
    let b := readCell p.mem a
    ∃ mem, allpassRun cfg v j p = .ok (fSub b v,
        { p with
          mem := mem
          rev := { p.rev with idx := p.rev.idx.set j (BitVec.ofNat 32 ((i + 1) % p.rev.len[j].toNat)) } }) ∧
      ∀ c, readCell mem c = if c = a then fAdd v (fMul b (fDecimal 1 2)) else readCell p.mem c

/-! ### The arithmetic of F -/

/-- 00_scope.md R12: +, -, × and / of finite operands, F(n) and a decimal literal are the exact results rounded to the
nearest F, ties to even, with subnormals kept; the sign of a product or quotient is the exclusive or of the operands'
signs; a sum or difference that is exactly zero is +0, or -0 where both terms are negative zeros; F(n) of a natural number
and a literal have the positive sign. -/
def Obligations.ArithmeticRoundsToNearestEven : Prop :=
  (∀ x y : F32, fIsFinite x = true → fIsFinite y = true →
    isNearestEven (fAdd x y) (fValue x + fValue y) ∧ isNearestEven (fSub x y) (fValue x - fValue y) ∧
    isNearestEven (fMul x y) (fValue x * fValue y) ∧ fSign (fMul x y) = (fSign x != fSign y) ∧
    (fMagnitude y ≠ 0 → isNearestEven (fDiv x y) (fValue x / fValue y) ∧ fSign (fDiv x y) = (fSign x != fSign y))) ∧
  (∀ x y : F32, fIsFinite x = true → fIsFinite y = true →
    (fValue x + fValue y = 0 → fSign (fAdd x y) = (fSign x && fSign y)) ∧
    (fValue x - fValue y = 0 → fSign (fSub x y) = (fSign x && !fSign y))) ∧
  (∀ z : Int, isNearestEven (fOfInt z) z) ∧ (∀ n : Nat, isNearestEven (fOfNat n) n ∧ fSign (fOfNat n) = false) ∧
  ∀ p q : Nat, q ≠ 0 → isNearestEven (fDecimal p q) ((p : ℚ) / q) ∧ fSign (fDecimal p q) = false

/-- 00_scope.md R12: every comparison with a NaN is false except !=, and comparisons of other values follow their
values with -0 = +0; an operation with a NaN operand gives a NaN. R12 names IEEE 754, whose infinities compare beyond every
finite value and whose operations on an infinity, and division by zero, give an infinity, a zero or a NaN. -/
def Obligations.NanAndComparisons : Prop :=
  (∀ x : F32, fIsNaN x = false →
    let inf := fun negative : Bool => if negative then (0xFF800000 : F32) else 0x7F800000
    (fLt x 0x7F800000 = true ↔ x ≠ 0x7F800000) ∧ (fLt 0xFF800000 x = true ↔ x ≠ 0xFF800000) ∧
    fLt 0x7F800000 x = false ∧ fLt x 0xFF800000 = false ∧
    (∀ y : F32, fIsNaN y = false → fLe x y = !fLt y x ∧ fEq x y = (fLe x y && fLe y x) ∧ fNe x y = !fEq x y) ∧
    ∀ s : Bool,
      (x ≠ inf !s → fAdd x (inf s) = inf s ∧ fAdd (inf s) x = inf s) ∧
      fIsNaN (fAdd (inf !s) (inf s)) = true ∧
      (x ≠ inf s → fSub x (inf s) = inf !s ∧ fSub (inf s) x = inf s) ∧ fIsNaN (fSub (inf s) (inf s)) = true ∧
      (fMagnitude x ≠ 0 → fMul x (inf s) = inf (fSign x != s) ∧ fMul (inf s) x = inf (fSign x != s)) ∧
      (fMagnitude x = 0 → fIsNaN (fMul x (inf s)) = true ∧ fIsNaN (fMul (inf s) x) = true) ∧
      (fIsFinite x = true → fDiv (inf s) x = inf (s != fSign x) ∧
        fDiv x (inf s) = if fSign x != s then 0x80000000 else 0) ∧
      (fIsFinite x = false → fIsNaN (fDiv (inf s) x) = true) ∧
      (∀ y : F32, fIsFinite x = true → fMagnitude y = 0 →
        (fMagnitude x ≠ 0 → fDiv x y = inf (fSign x != fSign y)) ∧
        (fMagnitude x = 0 → fIsNaN (fDiv x y) = true))) ∧
  ∀ x y : F32,
    (fIsNaN x = true ∨ fIsNaN y = true →
      fLt x y = false ∧ fLe x y = false ∧ fEq x y = false ∧ fNe x y = true ∧
      fIsNaN (fAdd x y) = true ∧ fIsNaN (fSub x y) = true ∧ fIsNaN (fMul x y) = true ∧ fIsNaN (fDiv x y) = true) ∧
    (fIsFinite x = true → fIsFinite y = true →
      (fLt x y = true ↔ fValue x < fValue y) ∧ (fLe x y = true ↔ fValue x ≤ fValue y) ∧
      (fEq x y = true ↔ fValue x = fValue y) ∧ (fNe x y = true ↔ fValue x ≠ fValue y))

/-- 00_scope.md R13, what it fixes of the four functions: sinF is 0 at 0, pow2F is 1 at 0, pow2F and pow10F are the exact
powers where these are F values, and results of sinF and cosF lie in [-1, 1]. That the integer 0 of the powers may be
written -0 is the model's reading (log entry 4). -/
def Obligations.TranscendentalProperties : Prop :=
  sinF 0 = 0 ∧ pow2F 0 = fOfNat 1 ∧
  (∀ x : F32, fInRange (fOfInt (-1)) (sinF x) (fOfNat 1) = true ∧ fInRange (fOfInt (-1)) (cosF x) (fOfNat 1) = true) ∧
  (∀ (x r : F32) (k : Int), fIsFinite x = true → fIsFinite r = true → fValue x = k → fValue r = 2 ^ k →
    pow2F x = r) ∧
  ∀ (x r : F32) (k : Int), fIsFinite x = true → fIsFinite r = true → fValue x = k → fValue r = 10 ^ k → pow10F x = r

/-- 00_scope.md R14: toInt16 and clampF. -/
def Obligations.ToInt16AndClamp : Prop :=
  (∀ v : F32,
    (fIsNaN v = true → (toInt16 v).toInt = 0) ∧
    (fLe (fOfInt 32767) v = true → (toInt16 v).toInt = 32767) ∧
    (fLe v (fOfInt (-32768)) = true → (toInt16 v).toInt = -32768) ∧
    (fLt (fOfInt (-32768)) v = true → fLt v (fOfInt 32767) = true →
      (0 ≤ fValue v → (toInt16 v).toInt = ⌊fValue v⌋) ∧ (fValue v ≤ 0 → (toInt16 v).toInt = ⌈fValue v⌉))) ∧
  ∀ v lo hi : F32,
    (fLt v lo = true → clampF v lo hi = lo) ∧
    (fLt v lo = false → fLt hi v = true → clampF v lo hi = hi) ∧
    (fLt v lo = false → fLt hi v = false → clampF v lo hi = v)

/-! ### Buffer memory and reset -/

/-- 20_memory.md R71: MemRead and MemWrite inside a region reach the word at base + i and no other; an index outside
the region faults and never wraps. Two canonical memories that read alike are the same memory. -/
def Obligations.BufferMemory : Prop :=
  (∀ (cfg : Config) (p : Pool) (base length i : Nat) (v : F32), i < length → base + i < cfg.memWords →
    memRead cfg p base length i = .ok (readCell p.mem (base + i)) ∧
    ∃ mem, memWrite cfg p base length i v = .ok { p with mem := mem } ∧
      (Memory.wf p.mem = true → Memory.wf mem = true ∧
        ∀ b, readCell mem b = if b = base + i then v else readCell p.mem b)) ∧
  (∀ (cfg : Config) (p : Pool) (base length i : Nat) (v : F32), length ≤ i ∨ cfg.memWords ≤ base + i →
    memRead cfg p base length i = .error .indexOutsideRegion ∧
    memWrite cfg p base length i v = .error .indexOutsideRegion) ∧
  ∀ m m' : Memory, Memory.wf m = true → Memory.wf m' = true → (∀ a, readCell m a = readCell m' a) → m = m'

/-- 70_reset_and_hazards.md R305, R308: the reset values of every field but the buffers, the two enables that need one and
STATUS bits 4 and 5 with LAST_CODE where such an enable is asked for (these in the next statement); R306: every setting is
its field of INIT_SETTINGS, clamped as its command clamps it, an enable being 1 where the field is not 0. That no arrival
waits is the model's own field port (log entry 6). -/
def Obligations.ResetValues : Prop :=
  ∀ cfg : Config,
    let s := State.resetOf cfg
    s.cfg = cfg ∧ s.lfoPhase = 0 ∧ s.svf = { low := 0, band := 0 } ∧
    s.eq = Vector.replicate 3 { x1 := 0, x2 := 0, y1 := 0, y2 := 0 } ∧ s.halted = false ∧ s.sampleCount = 0 ∧
    s.frames = [] ∧ s.responses = [] ∧ s.pending = { host := none, clock := none } ∧
    s.voices.length = cfg.maxVoices ∧
    (∀ v ∈ s.voices, v = { active := false, note := 0, velocity := 0, waveform := .sine, phase := 0, inc := 0,
                           lfsr := 0x0000ACE1, env := { state := .off, counter := 0 } }) ∧
    s.port = [] ∧ derivedOk s ∧
    (∀ k, k < 7 → k ≠ 4 → k ≠ 5 → s.status.sticky.getLsbD k = false) ∧
    (cfg.init.reverbEnable = 0 → cfg.init.delayEnable = 0 → s.status = { sticky := 0, lastCode := 0 }) ∧
    (isInstance cfg = true → settingsInRange cfg s.settings = true ∧
      s.settings.sampleRate.toNat = min (max cfg.init.sampleRate cfg.srMin) cfg.srMax ∧
      s.settings.voiceCount.toNat = min (max cfg.init.voiceCount 1) cfg.maxVoices) ∧
    s.settings.masterVolume.toNat = min cfg.init.masterVolume 255 ∧
    (waveformCode s.settings.waveform).toNat = min cfg.init.waveform 4 ∧
    (filterTypeCode s.settings.filterType).toNat = min cfg.init.filterType 2 ∧
    s.settings.lfoEnable = decide (cfg.init.lfoEnable ≠ 0) ∧ s.settings.lfoVibrato = decide (cfg.init.lfoVibrato ≠ 0) ∧
    s.settings.lfoTremolo = decide (cfg.init.lfoTremolo ≠ 0) ∧
    s.settings.filterEnable = decide (cfg.init.filterEnable ≠ 0) ∧ s.settings.eqEnable = decide (cfg.init.eqEnable ≠ 0) ∧
    s.settings.lfoRate = clampF cfg.init.lfoRate (fDecimal 1 10) (fOfNat 20) ∧
    s.settings.lfoDepth = clampF cfg.init.lfoDepth (fOfNat 0) (fOfNat 100) ∧
    s.settings.filterCutoff = clampF cfg.init.filterCutoff (fOfNat 20) (fOfNat 20000) ∧
    s.settings.filterResonance = clampF cfg.init.filterResonance (fOfNat 0) (fDecimal 99 100) ∧
    s.settings.eqBassGain = clampF cfg.init.eqBassGain (fOfInt (-12)) (fOfNat 12) ∧
    s.settings.eqMidGain = clampF cfg.init.eqMidGain (fOfInt (-12)) (fOfNat 12) ∧
    s.settings.eqTrebleGain = clampF cfg.init.eqTrebleGain (fOfInt (-12)) (fOfNat 12) ∧
    s.settings.reverbRoomSize = clampF cfg.init.reverbRoomSize (fOfNat 0) (fOfNat 1) ∧
    s.settings.reverbDamping = clampF cfg.init.reverbDamping (fOfNat 0) (fOfNat 1) ∧
    s.settings.reverbWet = clampF cfg.init.reverbWet (fOfNat 0) (fOfNat 1) ∧
    s.settings.delayTime = clampF cfg.init.delayTime (fOfNat 10) (fOfNat 1000) ∧
    s.settings.delayFeedback = clampF cfg.init.delayFeedback (fOfNat 0) (fOfNat 90) ∧
    s.settings.delayMix = clampF cfg.init.delayMix (fOfNat 0) (fOfNat 100)

/-- 70_reset_and_hazards.md R307: with REVERB_ENABLE and DELAY_ENABLE of INIT_SETTINGS set, reset allocates the reverb
and then the delay, each if it fits in what is left, and records code 5 or 6 where it does not (R308: STATUS is 0 but for
these). R308, 45_reverb_delay.md R224, R234: an allocated reverb has its six lengths, indices 0 and damping stores 0, an
allocated delay its size and write position 0; without its buffer an effect's indices, stores, size and position are 0.
That nothing is listed in buffer memory, so that unallocated words read +0 too, is the model's choice (log entry 10);
so is it that SCALED lengths and their sum neither wrap nor saturate above 2^32 - 1 (log entry 26). -/
def Obligations.ResetAllocations : Prop :=
  ∀ cfg : Config, isInstance cfg = true →
    let s := State.resetOf cfg
    let lengths := reverbLengths cfg s.settings.sampleRate
    let needReverb := lengths.toList.sum
    let needDelay := s.settings.sampleRate.toNat
    let fitsReverb := decide (cfg.init.reverbEnable ≠ 0 ∧ needReverb ≤ cfg.memWords)
    let left := if fitsReverb then cfg.memWords - needReverb else cfg.memWords
    let fitsDelay := decide (cfg.init.delayEnable ≠ 0 ∧ needDelay ≤ left)
    s.settings.reverbEnable = fitsReverb ∧ s.pool.rev.allocated = fitsReverb ∧
    s.settings.delayEnable = fitsDelay ∧ s.pool.dly.allocated = fitsDelay ∧
    s.pool.free.toNat = (if fitsDelay then left - needDelay else left) ∧
    (let failsReverb := decide (cfg.init.reverbEnable ≠ 0) && !fitsReverb
     let failsDelay := decide (cfg.init.delayEnable ≠ 0) && !fitsDelay
     s.status.sticky.getLsbD 4 = failsReverb ∧ s.status.sticky.getLsbD 5 = failsDelay ∧
     s.status = { sticky := (if failsReverb then 0x10 else 0) ||| (if failsDelay then 0x20 else 0),
                  lastCode := if failsDelay then 6 else if failsReverb then 5 else 0 }) ∧
    s.pool.rev.idx = Vector.replicate 6 0 ∧ s.pool.rev.fs = Vector.replicate 4 0 ∧
    (fitsReverb = true → s.pool.rev.len.toList.map BitVec.toNat = lengths.toList) ∧
    s.pool.dly.size.toNat = (if fitsDelay then needDelay else 0) ∧ s.pool.dly.wp = 0 ∧
    s.pool.mem = []

/-! ### Invariants -/

/-- 10_state.md R27: active = 1 exactly when env.state is not OFF: it holds at reset and every step keeps it. -/
def Obligations.ActiveExactlyWhenNotOff : Prop :=
  (∀ cfg : Config, voicesConsistent (State.resetOf cfg) = true) ∧
  ∀ s t : State, voicesConsistent s = true → step s = .next t → voicesConsistent t = true

/-- The invariant of the machine holds at reset, for every instance. -/
def Obligations.ResetHasInvariant : Prop :=
  ∀ cfg : Config, isInstance cfg = true → Inv (State.resetOf cfg)

/-- 10_state.md R22 to R27, R31, R32, R36, 60_exceptions.md R299: every step keeps the invariant: settings in their
legal ranges, derived coefficients those of the settings, voices consistent, envelope counters inside their phases,
buffers disjoint and inside memory with MEM_FREE the rest, memory canonical, a halted block silent. -/
def Obligations.StepKeepsInvariant : Prop := ∀ s t : State, Inv s → step s = .next t → Inv t

/-- 60_exceptions.md R292, R293; 20_memory.md R71: from a state with the invariant every step answers a next state: no
command and no TICK ever faults. -/
def Obligations.StepNeverStops : Prop := ∀ s : State, Inv s → ∃ t, step s = .next t

/-- 10_state.md R21, R37, 46_mixer.md R260, 43_lfo.md R191: what no command does: none changes a parameter, takes from
a stream or touches the port; only TICK emits a frame, one, and only with a frame do SAMPLE_COUNT and the LFO's phase
change; only READ_REG responds, one word. -/
def Obligations.OnlyTickAdvances : Prop :=
  ∀ (i : Instr) (s t : State), exec i s = .next t →
    t.cfg = s.cfg ∧ t.port = s.port ∧ t.pending = s.pending ∧
    (t.frames = s.frames ∨ (∃ a b c, i = .tick a b c) ∧ ∃ f, t.frames = s.frames ++ [f]) ∧
    (t.responses = s.responses ∨ (∃ a b c, i = .readReg a b c) ∧ ∃ w, t.responses = s.responses ++ [w]) ∧
    ((∀ a b c, i ≠ .tick a b c) → t.sampleCount = s.sampleCount ∧ t.lfoPhase = s.lfoPhase ∧ t.frames = s.frames) ∧
    (t.frames = s.frames → t.sampleCount = s.sampleCount ∧ t.lfoPhase = s.lfoPhase)

/-- 10_state.md R33, R34, 70_reset_and_hazards.md R309: a step that does not take a reset keeps the halted state once
it holds, and leaves every sticky bit of STATUS that is set, or clears all of them and LAST_CODE. -/
def Obligations.HaltedAndStickyBitsStay : Prop :=
  ∀ s t : State, step s = .next t → (∀ rest, s.port ≠ .reset :: rest) →
    (s.halted = true → t.halted = true) ∧
    (t.status = { sticky := 0, lastCode := 0 } ∨
      ∀ k, s.status.sticky.getLsbD k = true → t.status.sticky.getLsbD k = true)

end
end

