-- ==== Sys2Proof/Laws/Decode.lean ====
section
/-! SUPPORT. The fields of a command word (30_encoding.md R95, R96) after an encoder's assembly of them and back. -/

namespace Sys2Proof

@[simp] theorem opcodeOf_wordA (op a b c : BitVec 8) : opcodeOf (wordA op a b c) = op := by
  unfold opcodeOf wordA
  ext i hi
  simp
  grind

@[simp] theorem fieldA_wordA (op a b c : BitVec 8) : fieldA (wordA op a b c) = a := by
  unfold fieldA wordA
  ext i hi
  simp
  grind

@[simp] theorem fieldB_wordA (op a b c : BitVec 8) : fieldB (wordA op a b c) = b := by
  unfold fieldB wordA
  ext i hi
  simp
  grind

@[simp] theorem fieldC_wordA (op a b c : BitVec 8) : fieldC (wordA op a b c) = c := by
  unfold fieldC wordA
  ext i hi
  simp
  grind

@[simp] theorem opcodeOf_wordP (op : BitVec 8) (z : BitVec 24) : opcodeOf (wordP op z) = op := by
  unfold opcodeOf wordP
  ext i hi
  simp
  grind

@[simp] theorem fieldZ_wordP (op : BitVec 8) (z : BitVec 24) : fieldZ (wordP op z) = z := by
  unfold fieldZ wordP
  ext i hi
  simp
  grind

/-- A word is its opcode and its three fields. -/
theorem wordA_fields (w : Word) : wordA (opcodeOf w) (fieldA w) (fieldB w) (fieldC w) = w := by
  unfold wordA opcodeOf fieldA fieldB fieldC
  ext i hi
  simp
  grind

/-- A word is its opcode and its field z. -/
theorem wordP_fields (w : Word) : wordP (opcodeOf w) (fieldZ w) = w := by
  unfold wordP opcodeOf fieldZ
  ext i hi
  simp
  grind

/-- A format-P row's command is encoded under that row's opcode. -/
theorem formatPRow_encode {n : Nat} {f : BitVec 24 → Word → Instr} (h : formatPRow n = some f) (z : BitVec 24)
    (data : Word) : encode (f z data) = [wordP (BitVec.ofNat 8 n) z, data] := by
  unfold formatPRow at h
  split at h <;> cases h <;> rfl

/-- A format-A row's command is encoded under that row's opcode. -/
theorem formatARow_encode {n : Nat} {f : BitVec 8 → BitVec 8 → BitVec 8 → Instr} (h : formatARow n = some f)
    (a b c : BitVec 8) : encode (f a b c) = [wordA (BitVec.ofNat 8 n) a b c] := by
  unfold formatARow at h
  split at h <;> cases h <;> rfl

/-- The two formats have no opcode in common. -/
theorem formatARow_of_formatPRow {n : Nat} {f : BitVec 24 → Word → Instr} (h : formatPRow n = some f) :
    formatARow n = none := by
  unfold formatPRow at h
  split at h <;> first | rfl | cases h

/-- What decoding one word of a format-P opcode and a data word gives. -/
theorem decode_formatP {w : Word} {f : BitVec 24 → Word → Instr} (h : formatPRow (opcodeOf w).toNat = some f)
    (data : Word) (rest : List Word) : decode (w :: data :: rest) = .ok (f (fieldZ w) data, rest) := by
  simp [decode, h]

/-- What decoding one word of a format-A opcode gives. -/
theorem decode_formatA {w : Word} {f : BitVec 8 → BitVec 8 → BitVec 8 → Instr}
    (h : formatARow (opcodeOf w).toNat = some f) (rest : List Word) :
    decode (w :: rest) = .ok (f (fieldA w) (fieldB w) (fieldC w), rest) := by
  have hp : formatPRow (opcodeOf w).toNat = none := by
    cases hq : formatPRow (opcodeOf w).toNat with
    | none => rfl
    | some g => simp [formatARow_of_formatPRow hq] at h
  simp [decode, hp, h]

/-- The bytes of a word make that word. -/
theorem wordOfBytes_bytesOfWord (w : Word) :
    wordOfBytes (w.extractLsb' 0 8) (w.extractLsb' 8 8) (w.extractLsb' 16 8) (w.extractLsb' 24 8) = w := by
  unfold wordOfBytes
  ext i hi
  simp
  grind

end Sys2Proof
end

