-- ==== Sys2Proof/Laws/Memory.lean ====
section
/-! SUPPORT. Buffer memory: every operation keeps the canonical form, a read after a write, a zero-filled region, and what a
buffer access can do (20_memory.md R71, R72). -/

namespace Sys2Proof.Machine

/-- Every listed word lies above a bound. -/
def cellsAbove (a : Nat) (m : Memory) : Prop := ∀ c ∈ m, a < c.1

/-- The canonical form, opened: a nonzero first word, the rest above it and canonical. -/
theorem Memory.wf_cons (a : Nat) (v : F32) (m : Memory) :
    Memory.wf ((a, v) :: m) = true ↔ v ≠ 0 ∧ cellsAbove a m ∧ Memory.wf m = true := by
  induction m generalizing a v with
  | nil => simp [Memory.wf, cellsAbove]
  | cons c rest ih =>
    obtain ⟨b, w⟩ := c
    rw [Memory.wf, Bool.and_eq_true, Bool.and_eq_true, decide_eq_true_eq, ih b w]
    constructor
    · rintro ⟨⟨hv, hab⟩, hw, hb, hm⟩
      refine ⟨by simpa using hv, ?_, hw, hb, hm⟩
      intro c hc
      rcases List.mem_cons.1 hc with rfl | hc
      · exact hab
      · exact lt_trans hab (hb c hc)
    · rintro ⟨hv, ha, hw, hb, hm⟩
      exact ⟨⟨by simpa using hv, ha (b, w) List.mem_cons_self⟩, hw, hb, hm⟩

/-- A word below every listed one reads +0. -/
theorem readCell_of_above {a b : Nat} {m : Memory} (h : cellsAbove a m) (hb : b ≤ a) : readCell m b = 0 := by
  induction m with
  | nil => rfl
  | cons c rest ih =>
    have hc : a < c.1 := h c List.mem_cons_self
    have hne : b ≠ c.1 := by omega
    simp [readCell, hne, ih fun d hd => h d (List.mem_cons_of_mem _ hd)]

/-- What a write can list: a word that was listed, or the one written. -/
theorem mem_writeCell {m : Memory} {a : Nat} {v : F32} {c : Nat × F32} (h : c ∈ writeCell m a v) :
    c ∈ m ∨ (c = (a, v) ∧ v ≠ 0) := by
  induction m with
  | nil => by_cases hv : v = 0 <;> simp_all [writeCell]
  | cons d rest ih =>
    obtain ⟨b, w⟩ := d
    unfold writeCell at h
    split_ifs at h with h1 hv h2 hv
    · exact .inl h
    · rcases List.mem_cons.1 h with rfl | h
      · exact .inr ⟨rfl, hv⟩
      · exact .inl h
    · exact .inl (List.mem_cons_of_mem _ h)
    · rcases List.mem_cons.1 h with rfl | h
      · exact .inr ⟨rfl, hv⟩
      · exact .inl (List.mem_cons_of_mem _ h)
    · rcases List.mem_cons.1 h with rfl | h
      · exact .inl List.mem_cons_self
      · exact (ih h).imp (List.mem_cons_of_mem _) id

/-- A write keeps the canonical form. -/
theorem writeCell_wf {m : Memory} (a : Nat) (v : F32) (h : Memory.wf m = true) : Memory.wf (writeCell m a v) = true := by
  induction m with
  | nil => unfold writeCell; split_ifs with hv <;> simp [Memory.wf]; exact hv
  | cons c rest ih =>
    obtain ⟨b, w⟩ := c
    obtain ⟨hw, hb, hm⟩ := (Memory.wf_cons b w rest).1 h
    unfold writeCell
    split_ifs with h1 hv h2 hv
    · exact h
    · refine (Memory.wf_cons a v _).2 ⟨hv, ?_, h⟩
      intro d hd
      rcases List.mem_cons.1 hd with rfl | hd
      · exact h1
      · exact lt_trans h1 (hb d hd)
    · exact hm
    · exact (Memory.wf_cons a v rest).2 ⟨hv, h2 ▸ hb, hm⟩
    · refine (Memory.wf_cons b w _).2 ⟨hw, ?_, ih hm⟩
      intro d hd
      rcases mem_writeCell hd with hd | ⟨rfl, _⟩
      · exact hb d hd
      · exact lt_of_le_of_ne (not_lt.1 h1) (Ne.symm h2)

/-- A read after a write: the word written, or what stood there before. -/
theorem readCell_writeCell {m : Memory} (a b : Nat) (v : F32) (h : Memory.wf m = true) :
    readCell (writeCell m a v) b = if b = a then v else readCell m b := by
  induction m with
  | nil => grind [writeCell, readCell]
  | cons c rest ih =>
    obtain ⟨e, w⟩ := c
    obtain ⟨hw, he, hm⟩ := (Memory.wf_cons e w rest).1 h
    have below : ∀ x, x ≤ e → readCell rest x = 0 := fun x hx => readCell_of_above he hx
    grind [writeCell, readCell]

/-- Zero-filling a region keeps the canonical form. -/
theorem clearRegion_wf {m : Memory} (base length : Nat) (h : Memory.wf m = true) :
    Memory.wf (clearRegion m base length) = true := by
  induction m with
  | nil => rfl
  | cons c rest ih =>
    obtain ⟨b, w⟩ := c
    obtain ⟨hw, hb, hm⟩ := (Memory.wf_cons b w rest).1 h
    unfold clearRegion
    rw [List.filter_cons]
    split_ifs
    · exact (Memory.wf_cons b w _).2 ⟨hw, fun d hd => hb d (List.mem_of_mem_filter hd), ih hm⟩
    · exact ih hm

/-- A zero-filled region reads +0 inside and as before outside. -/
theorem readCell_clearRegion (m : Memory) (base length b : Nat) :
    readCell (clearRegion m base length) b = if base ≤ b ∧ b < base + length then 0 else readCell m b := by
  induction m with
  | nil => simp [clearRegion, readCell]
  | cons c rest ih =>
    obtain ⟨e, w⟩ := c
    unfold clearRegion at ih ⊢
    grind [readCell]

/-- A MemRead that answers: the index lies in the region, and the value is the word there. -/
theorem memRead_ok {cfg : Config} {p : Pool} {base length i : Nat} {v : F32} (h : memRead cfg p base length i = .ok v) :
    i < length ∧ base + i < cfg.memWords ∧ v = readCell p.mem (base + i) := by
  unfold memRead inRegion at h
  split at h
  · simp_all
  · cases h

/-- A MemWrite that answers: the index lies in the region, and only that word of the pool changes. -/
theorem memWrite_ok {cfg : Config} {p p' : Pool} {base length i : Nat} {v : F32}
    (h : memWrite cfg p base length i v = .ok p') :
    i < length ∧ base + i < cfg.memWords ∧ p' = { p with mem := writeCell p.mem (base + i) v } := by
  unfold memWrite inRegion at h
  split at h
  · simp_all
  · cases h

/-- A reverb allocation that succeeds keeps the canonical form. -/
theorem tryReverb_wf {cfg : Config} {rate : Word} {p p' : Pool} (h : Memory.wf p.mem = true)
    (ht : tryReverb cfg rate p = some p') : Memory.wf p'.mem = true := by
  unfold tryReverb at ht
  simp only [Option.ite_none_left_eq_some, Option.some.injEq] at ht
  rw [← ht.2]
  exact clearRegion_wf _ _ h

/-- A delay allocation that succeeds keeps the canonical form. -/
theorem tryDelay_wf {cfg : Config} {n : Word} {p p' : Pool} (h : Memory.wf p.mem = true)
    (ht : tryDelay cfg n p = some p') : Memory.wf p'.mem = true := by
  unfold tryDelay at ht
  simp only [Option.ite_none_left_eq_some, Option.some.injEq] at ht
  rw [← ht.2]
  exact clearRegion_wf _ _ h

/-- The end of an allocation request keeps the canonical form. -/
theorem settleAlloc_wf {code : Code} {attempt : Option Pool} {p : Pool} {st : Status} (h : Memory.wf p.mem = true)
    (ha : ∀ p', attempt = some p' → Memory.wf p'.mem = true) :
    Memory.wf (settleAlloc code attempt p st).pool.mem = true := by
  cases attempt with
  | none => exact h
  | some p' => exact ha p' rfl

/-- The memory at reset is canonical. -/
theorem reset_memory_wf (cfg : Config) : Memory.wf (State.resetOf cfg).pool.mem = true := by
  have he : Memory.wf (emptyPool cfg).mem = true := rfl
  have hr : ∀ x, Memory.wf (resetReverb cfg x).pool.mem = true := by
    intro x
    unfold resetReverb
    split
    · exact he
    · exact settleAlloc_wf he fun _ => tryReverb_wf he
  show Memory.wf (resetDelay cfg (deriveAll (initialSettings cfg)) (resetReverb cfg (initialSettings cfg))).pool.mem = true
  unfold resetDelay
  split
  · exact hr _
  · exact settleAlloc_wf (hr _) fun _ => tryDelay_wf (hr _)

end Sys2Proof.Machine
end

