-- ==== Sys2Proof/Laws/Effects.lean ====
section
/-! SUPPORT. What one sample through the reverb and through the delay can do to the buffers (45_reverb_delay.md R225, R226,
R236): when it completes, which words it writes, and what it keeps. -/

namespace Sys2Proof.Machine

/-- What a run of the combs and allpasses `js` does to the pool: the regions and MEM_FREE stay, an index changes only for a
buffer of `js`, only the words at the old indices of those buffers change, and the canonical form and the index bounds are
kept. -/
structure ReverbRan (js : List (Fin 6)) (p p' : Pool) : Prop where
  free : p'.free = p.free
  dly : p'.dly = p.dly
  allocated : p'.rev.allocated = p.rev.allocated
  base : p'.rev.base = p.rev.base
  len : p'.rev.len = p.rev.len
  idx : ∀ k : Fin 6, k ∉ js → p'.rev.idx[k] = p.rev.idx[k]
  bounds : (∀ k : Fin 6, p.rev.idx[k].toNat < p.rev.len[k].toNat) →
    ∀ k : Fin 6, p'.rev.idx[k].toNat < p'.rev.len[k].toNat
  wf : Memory.wf p.mem = true → Memory.wf p'.mem = true
  mem : Memory.wf p.mem = true → ∀ a, (∀ k ∈ js, a ≠ bufferBase p.rev k + p.rev.idx[k].toNat) →
    readCell p'.mem a = readCell p.mem a

/-- A buffer's start depends on the base and the lengths alone. -/
theorem bufferBase_congr {r r' : Reverb} (hb : r'.base = r.base) (hl : r'.len = r.len) (j : Nat) :
    bufferBase r' j = bufferBase r j := by
  simp [bufferBase, hb, hl]

/-- The sum of the elements before a position and the one there is at most the whole sum. -/
theorem sum_take_add_le : ∀ (l : List Nat) (j : Nat) (h : j < l.length), (l.take j).sum + l[j] ≤ l.sum
  | [], j, h => by simp at h
  | x :: l, 0, _ => by simp
  | x :: l, j + 1, h => by
    have := sum_take_add_le l j (by simpa using h)
    simp only [List.take_succ_cons, List.sum_cons, List.getElem_cons_succ]
    omega

/-- Every buffer of the reverb lies inside the reverb's region. -/
theorem bufferBase_add_le (r : Reverb) (j : Fin 6) :
    bufferBase r j + r.len[j].toNat ≤ r.base.toNat + reverbSize r := by
  have h := sum_take_add_le (r.len.toList.map BitVec.toNat) j (by simp)
  simp only [List.getElem_map, Vector.getElem_toList] at h
  unfold bufferBase reverbSize
  rw [← List.map_take] at h
  have e : r.len[j] = r.len[(j : Nat)] := rfl
  rw [e]
  omega

/-- Nothing ran. -/
theorem ReverbRan.refl (p : Pool) : ReverbRan [] p p :=
  ⟨rfl, rfl, rfl, rfl, rfl, fun _ _ => rfl, id, id, fun _ _ _ => rfl⟩

/-- One run after another, over buffers that differ. -/
theorem ReverbRan.trans {js ks : List (Fin 6)} {p p' p'' : Pool} (h : ReverbRan js p p') (h' : ReverbRan ks p' p'')
    (hd : ∀ k ∈ ks, k ∉ js) : ReverbRan (js ++ ks) p p'' where
  free := h'.free.trans h.free
  dly := h'.dly.trans h.dly
  allocated := h'.allocated.trans h.allocated
  base := h'.base.trans h.base
  len := h'.len.trans h.len
  idx := fun k hk => by
    rw [List.mem_append, not_or] at hk
    rw [h'.idx k hk.2, h.idx k hk.1]
  bounds := fun hb => h'.bounds (h.bounds hb)
  wf := fun hw => h'.wf (h.wf hw)
  mem := fun hw a ha => by
    rw [h'.mem (h.wf hw) a, h.mem hw a fun k hk => ha k (List.mem_append_left _ hk)]
    intro k hk
    rw [bufferBase_congr h.base h.len, h.idx k (hd k hk)]
    exact ha k (List.mem_append_right _ hk)

/-- The index of one buffer advanced, and the word at it written. -/
theorem reverbRan_of_write {p : Pool} {j : Fin 6} {v : F32} {r : Reverb} (hr : r.idx = p.rev.idx)
    (ha : r.allocated = p.rev.allocated) (hb : r.base = p.rev.base) (hl : r.len = p.rev.len) :
    ReverbRan [j] p
      { p with mem := writeCell p.mem (bufferBase p.rev j + p.rev.idx[j].toNat) v, rev := advanceIndex r j } where
  free := rfl
  dly := rfl
  allocated := ha
  base := hb
  len := hl
  idx := fun k hk => by
    have : (j : Nat) ≠ k := fun h => hk (by simp [Fin.ext_iff, h])
    show (r.idx.set j _)[(k : Nat)] = _
    rw [Vector.getElem_set_ne _ _ this, hr]
    rfl
  bounds := fun h k => by
    show (r.idx.set j _)[(k : Nat)].toNat < r.len[k].toNat
    by_cases hk : (j : Nat) = k
    · have hjk : j = k := Fin.ext hk
      subst hjk
      rw [Vector.getElem_set_self, hl]
      have hlt := h j
      have : (r.idx[j].toNat + 1) % p.rev.len[j].toNat < p.rev.len[j].toNat := Nat.mod_lt _ (by omega)
      rw [BitVec.toNat_ofNat]
      exact lt_of_le_of_lt (Nat.mod_le _ _) this
    · rw [Vector.getElem_set_ne _ _ hk, hr, hl]
      exact h k
  wf := writeCell_wf _ _
  mem := fun hw a ha => by
    show readCell (writeCell _ _ _) a = _
    rw [readCell_writeCell _ _ _ hw, if_neg (ha j (by simp))]

/-- A comb that answers: the word at its index read, its store and that word written, its index advanced. -/
theorem combRun_ok {cfg : Config} {fb damp x y : F32} {c : Fin 4} {p p' : Pool}
    (h : combRun cfg fb damp x c p = .ok (y, p')) : ReverbRan [c.castLE (by decide)] p p' := by
  unfold combRun at h
  simp only [readBuffer, writeBuffer] at h
  split at h
  · cases h
  · rename_i v hv
    split at h
    · cases h
    · rename_i q hq
      obtain ⟨_, _, rfl⟩ := memWrite_ok hq
      cases h
      exact reverbRan_of_write rfl rfl rfl rfl

/-- An allpass that answers. -/
theorem allpassRun_ok {cfg : Config} {v o : F32} {j : Fin 6} {p p' : Pool}
    (h : allpassRun cfg v j p = .ok (o, p')) : ReverbRan [j] p p' := by
  unfold allpassRun at h
  simp only [readBuffer, writeBuffer] at h
  split at h
  · cases h
  · split at h
    · cases h
    · rename_i q hq
      obtain ⟨_, _, rfl⟩ := memWrite_ok hq
      cases h
      exact reverbRan_of_write rfl rfl rfl rfl

/-- A MemRead inside its region answers. -/
theorem memRead_of_lt {cfg : Config} {p : Pool} {base length i : Nat} (hi : i < length) (hm : base + i < cfg.memWords) :
    memRead cfg p base length i = .ok (readCell p.mem (base + i)) := by
  simp [memRead, inRegion, hi, hm]

/-- A MemWrite inside its region answers. -/
theorem memWrite_of_lt {cfg : Config} {p : Pool} {base length i : Nat} {v : F32} (hi : i < length)
    (hm : base + i < cfg.memWords) :
    memWrite cfg p base length i v = .ok { p with mem := writeCell p.mem (base + i) v } := by
  simp [memWrite, inRegion, hi, hm]

/-- A comb whose index lies inside its buffer, inside buffer memory, answers. -/
theorem combRun_of_lt {cfg : Config} {fb damp x : F32} {c : Fin 4} {p : Pool}
    (hi : p.rev.idx[(c.castLE (by decide) : Fin 6)].toNat < p.rev.len[(c.castLE (by decide) : Fin 6)].toNat)
    (hm : bufferBase p.rev (c.castLE (by decide) : Fin 6) + p.rev.idx[(c.castLE (by decide) : Fin 6)].toNat < cfg.memWords) :
    ∃ r, combRun cfg fb damp x c p = .ok r := by
  unfold combRun
  simp only [readBuffer, writeBuffer]
  rw [memRead_of_lt hi hm]
  dsimp only
  rw [memWrite_of_lt hi hm]
  exact ⟨_, rfl⟩

/-- An allpass whose index lies inside its buffer, inside buffer memory, answers. -/
theorem allpassRun_of_lt {cfg : Config} {v : F32} {j : Fin 6} {p : Pool} (hi : p.rev.idx[j].toNat < p.rev.len[j].toNat)
    (hm : bufferBase p.rev j + p.rev.idx[j].toNat < cfg.memWords) : ∃ r, allpassRun cfg v j p = .ok r := by
  unfold allpassRun
  simp only [readBuffer, writeBuffer]
  rw [memRead_of_lt hi hm]
  dsimp only
  rw [memWrite_of_lt hi hm]
  exact ⟨_, rfl⟩

/-- The combs `cs` as buffers. -/
def combBuffers (cs : List (Fin 4)) : List (Fin 6) := cs.map (Fin.castLE (by decide))

/-- The combs that answer. -/
theorem combsRun_ok {cfg : Config} {fb damp x : F32} {cs : List (Fin 4)} (hn : cs.Nodup) :
    ∀ {acc y : F32} {p p' : Pool}, combsRun cfg fb damp x cs acc p = .ok (y, p') →
      ReverbRan (combBuffers cs) p p' := by
  induction cs with
  | nil => intro acc y p p' h; cases h; exact ReverbRan.refl p
  | cons c cs ih =>
    intro acc y p p' h
    rw [List.nodup_cons] at hn
    unfold combsRun at h
    split at h
    · cases h
    · rename_i q hq
      refine ReverbRan.trans (js := [_]) (combRun_ok hq) (ih hn.2 h) ?_
      intro k hk hk'
      simp only [List.mem_singleton] at hk'
      rw [List.mem_map] at hk
      obtain ⟨d, hd, rfl⟩ := hk
      have : d = c := by simpa [Fin.ext_iff] using hk'
      exact hn.1 (this ▸ hd)

/-- The allpasses that answer. -/
theorem allpassesRun_ok {cfg : Config} {js : List (Fin 6)} (hn : js.Nodup) :
    ∀ {v y : F32} {p p' : Pool}, allpassesRun cfg js v p = .ok (y, p') → ReverbRan js p p' := by
  induction js with
  | nil => intro v y p p' h; cases h; exact ReverbRan.refl p
  | cons j js ih =>
    intro v y p p' h
    rw [List.nodup_cons] at hn
    unfold allpassesRun at h
    split at h
    · cases h
    · rename_i q hq
      refine ReverbRan.trans (js := [_]) (allpassRun_ok hq) (ih hn.2 h) ?_
      intro k hk hk'
      simp only [List.mem_singleton] at hk'
      exact hn.1 (hk' ▸ hk)

/-- The reverb that answers: all six indices advance and only the six words at them change. -/
theorem reverbRun_ok {cfg : Config} {x : Settings} {fb input y : F32} {p p' : Pool}
    (h : reverbRun cfg x fb input p = .ok (y, p')) : ReverbRan [0, 1, 2, 3, 4, 5] p p' := by
  unfold reverbRun at h
  split at h
  · cases h
  · rename_i q hq
    split at h
    · cases h
    · rename_i q' hq'
      cases h
      exact ReverbRan.trans (js := combBuffers [0, 1, 2, 3]) (combsRun_ok (by decide) hq) (allpassesRun_ok (by decide) hq')
        (by decide)

/-- The buffers of the reverb as every run keeps them: indices inside their buffers, the region inside buffer memory. -/
def reverbReady (cfg : Config) (p : Pool) : Prop :=
  (∀ k : Fin 6, p.rev.idx[k].toNat < p.rev.len[k].toNat) ∧ p.rev.base.toNat + reverbSize p.rev ≤ cfg.memWords

/-- A run of combs and allpasses keeps the buffers ready. -/
theorem ReverbRan.ready {js : List (Fin 6)} {cfg : Config} {p p' : Pool} (h : ReverbRan js p p') (hr : reverbReady cfg p) :
    reverbReady cfg p' := by
  refine ⟨h.bounds hr.1, ?_⟩
  have : reverbSize p'.rev = reverbSize p.rev := by simp [reverbSize, h.len]
  rw [h.base, this]
  exact hr.2

/-- Every word at an index of a ready reverb lies inside buffer memory. -/
theorem reverbReady.lt {cfg : Config} {p : Pool} (h : reverbReady cfg p) (j : Fin 6) :
    bufferBase p.rev j + p.rev.idx[j].toNat < cfg.memWords := by
  have := bufferBase_add_le p.rev j
  have := h.1 j
  have := h.2
  omega

/-- The combs of a ready reverb answer. -/
theorem combsRun_of_ready {cfg : Config} {fb damp x : F32} (cs : List (Fin 4)) :
    ∀ {acc : F32} {p : Pool}, reverbReady cfg p → ∃ r, combsRun cfg fb damp x cs acc p = .ok r := by
  induction cs with
  | nil => intro acc p _; exact ⟨_, rfl⟩
  | cons c cs ih =>
    intro acc p h
    obtain ⟨⟨y, q⟩, hq⟩ := combRun_of_lt (cfg := cfg) (fb := fb) (damp := damp) (x := x) (c := c) (h.1 _) (h.lt _)
    simp only [combsRun, hq]
    exact ih ((combRun_ok hq).ready h)

/-- The allpasses of a ready reverb answer. -/
theorem allpassesRun_of_ready {cfg : Config} (js : List (Fin 6)) :
    ∀ {v : F32} {p : Pool}, reverbReady cfg p → ∃ r, allpassesRun cfg js v p = .ok r := by
  induction js with
  | nil => intro v p _; exact ⟨_, rfl⟩
  | cons j js ih =>
    intro v p h
    obtain ⟨⟨y, q⟩, hq⟩ := allpassRun_of_lt (cfg := cfg) (v := v) (h.1 j) (h.lt j)
    simp only [allpassesRun, hq]
    exact ih ((allpassRun_ok hq).ready h)

/-- A ready reverb answers. -/
theorem reverbRun_of_ready {cfg : Config} {x : Settings} {fb input : F32} {p : Pool} (h : reverbReady cfg p) :
    ∃ r, reverbRun cfg x fb input p = .ok r := by
  obtain ⟨⟨acc, q⟩, hq⟩ := combsRun_of_ready (cfg := cfg) (fb := fb) (damp := x.reverbDamping) (x := input) [0, 1, 2, 3]
    (acc := fOfNat 0) h
  have hq' := (combsRun_ok (by decide) hq).ready h
  obtain ⟨⟨v, q'⟩, hv⟩ := allpassesRun_of_ready (cfg := cfg) [4, 5] (v := fDiv acc (fOfNat 4)) hq'
  simp only [reverbRun, hq, hv]
  exact ⟨_, rfl⟩

/-- The delay's read index lies inside the line. -/
theorem delayReadIndex_lt (dly : Delay) (delayD : Word) (h : 0 < dly.size.toNat) :
    delayReadIndex dly delayD < dly.size.toNat := by
  unfold delayReadIndex
  have h1 := Int.emod_nonneg ((dly.wp.toNat : Int) + dly.size.toNat - delayD.toNat)
    (b := (dly.size.toNat : Int)) (by omega)
  have h2 := Int.emod_lt_of_pos ((dly.wp.toNat : Int) + dly.size.toNat - delayD.toNat)
    (b := (dly.size.toNat : Int)) (by omega)
  omega

/-- The delay line as every run keeps it. -/
def delayReady (cfg : Config) (p : Pool) : Prop :=
  p.dly.wp.toNat < p.dly.size.toNat ∧ p.dly.base.toNat + p.dly.size.toNat ≤ cfg.memWords

/-- One sample through a ready delay line: the word read, the word written, the position advanced. -/
theorem delayRun_of_ready {cfg : Config} {x : Settings} {delayD : Word} {input : F32} {p : Pool} (h : delayReady cfg p) :
    delayRun cfg x delayD input p =
      (let dl := readCell p.mem (p.dly.base.toNat + delayReadIndex p.dly delayD)
       .ok (delayBlend x.delayMix input dl,
        { p with
          mem := writeCell p.mem (p.dly.base.toNat + p.dly.wp.toNat) (delayInject x.delayFeedback input dl)
          dly := { p.dly with wp := BitVec.ofNat 32 ((p.dly.wp.toNat + 1) % p.dly.size.toNat) } })) := by
  obtain ⟨hw, hs⟩ := h
  have hr := delayReadIndex_lt p.dly delayD (by omega)
  simp only [delayRun, memRead_of_lt hr (by omega : p.dly.base.toNat + delayReadIndex p.dly delayD < cfg.memWords),
    memWrite_of_lt hw (by omega : p.dly.base.toNat + p.dly.wp.toNat < cfg.memWords)]

/-- A delay line that answers was ready at its write position. -/
theorem delayRun_ok {cfg : Config} {x : Settings} {delayD : Word} {input y : F32} {p p' : Pool}
    (h : delayRun cfg x delayD input p = .ok (y, p')) :
    ∃ v, p' =
      { p with
        mem := writeCell p.mem (p.dly.base.toNat + p.dly.wp.toNat) v
        dly := { p.dly with wp := BitVec.ofNat 32 ((p.dly.wp.toNat + 1) % p.dly.size.toNat) } } := by
  unfold delayRun at h
  split at h
  · cases h
  · split at h
    · cases h
    · rename_i q hq
      obtain ⟨_, _, rfl⟩ := memWrite_ok hq
      cases h
      exact ⟨_, rfl⟩

end Sys2Proof.Machine
end

