-- ==== Sys2Proof/Laws/State.lean ====
section
/-! SUPPORT. The field lemmas of the state's updates: one per field per update (Machine/Ops.lean), so that no proof unfolds a
record update. -/

namespace Sys2Proof.Machine

variable (s : State)

@[simp] theorem withSettings_cfg (x : Settings) : (s.withSettings x).cfg = s.cfg := rfl
@[simp] theorem withSettings_settings (x : Settings) : (s.withSettings x).settings = x := rfl
@[simp] theorem withSettings_derived (x : Settings) : (s.withSettings x).derived = s.derived := rfl
@[simp] theorem withSettings_voices (x : Settings) : (s.withSettings x).voices = s.voices := rfl
@[simp] theorem withSettings_lfoPhase (x : Settings) : (s.withSettings x).lfoPhase = s.lfoPhase := rfl
@[simp] theorem withSettings_svf (x : Settings) : (s.withSettings x).svf = s.svf := rfl
@[simp] theorem withSettings_eq (x : Settings) : (s.withSettings x).eq = s.eq := rfl
@[simp] theorem withSettings_pool (x : Settings) : (s.withSettings x).pool = s.pool := rfl
@[simp] theorem withSettings_status (x : Settings) : (s.withSettings x).status = s.status := rfl
@[simp] theorem withSettings_halted (x : Settings) : (s.withSettings x).halted = s.halted := rfl
@[simp] theorem withSettings_sampleCount (x : Settings) : (s.withSettings x).sampleCount = s.sampleCount := rfl
@[simp] theorem withSettings_frames (x : Settings) : (s.withSettings x).frames = s.frames := rfl
@[simp] theorem withSettings_responses (x : Settings) : (s.withSettings x).responses = s.responses := rfl
@[simp] theorem withSettings_pending (x : Settings) : (s.withSettings x).pending = s.pending := rfl
@[simp] theorem withSettings_port (x : Settings) : (s.withSettings x).port = s.port := rfl

@[simp] theorem withDerived_cfg (x : Derived) : (s.withDerived x).cfg = s.cfg := rfl
@[simp] theorem withDerived_settings (x : Derived) : (s.withDerived x).settings = s.settings := rfl
@[simp] theorem withDerived_derived (x : Derived) : (s.withDerived x).derived = x := rfl
@[simp] theorem withDerived_voices (x : Derived) : (s.withDerived x).voices = s.voices := rfl
@[simp] theorem withDerived_lfoPhase (x : Derived) : (s.withDerived x).lfoPhase = s.lfoPhase := rfl
@[simp] theorem withDerived_svf (x : Derived) : (s.withDerived x).svf = s.svf := rfl
@[simp] theorem withDerived_eq (x : Derived) : (s.withDerived x).eq = s.eq := rfl
@[simp] theorem withDerived_pool (x : Derived) : (s.withDerived x).pool = s.pool := rfl
@[simp] theorem withDerived_status (x : Derived) : (s.withDerived x).status = s.status := rfl
@[simp] theorem withDerived_halted (x : Derived) : (s.withDerived x).halted = s.halted := rfl
@[simp] theorem withDerived_sampleCount (x : Derived) : (s.withDerived x).sampleCount = s.sampleCount := rfl
@[simp] theorem withDerived_frames (x : Derived) : (s.withDerived x).frames = s.frames := rfl
@[simp] theorem withDerived_responses (x : Derived) : (s.withDerived x).responses = s.responses := rfl
@[simp] theorem withDerived_pending (x : Derived) : (s.withDerived x).pending = s.pending := rfl
@[simp] theorem withDerived_port (x : Derived) : (s.withDerived x).port = s.port := rfl

@[simp] theorem withVoices_cfg (x : List Voice) : (s.withVoices x).cfg = s.cfg := rfl
@[simp] theorem withVoices_settings (x : List Voice) : (s.withVoices x).settings = s.settings := rfl
@[simp] theorem withVoices_derived (x : List Voice) : (s.withVoices x).derived = s.derived := rfl
@[simp] theorem withVoices_voices (x : List Voice) : (s.withVoices x).voices = x := rfl
@[simp] theorem withVoices_lfoPhase (x : List Voice) : (s.withVoices x).lfoPhase = s.lfoPhase := rfl
@[simp] theorem withVoices_svf (x : List Voice) : (s.withVoices x).svf = s.svf := rfl
@[simp] theorem withVoices_eq (x : List Voice) : (s.withVoices x).eq = s.eq := rfl
@[simp] theorem withVoices_pool (x : List Voice) : (s.withVoices x).pool = s.pool := rfl
@[simp] theorem withVoices_status (x : List Voice) : (s.withVoices x).status = s.status := rfl
@[simp] theorem withVoices_halted (x : List Voice) : (s.withVoices x).halted = s.halted := rfl
@[simp] theorem withVoices_sampleCount (x : List Voice) : (s.withVoices x).sampleCount = s.sampleCount := rfl
@[simp] theorem withVoices_frames (x : List Voice) : (s.withVoices x).frames = s.frames := rfl
@[simp] theorem withVoices_responses (x : List Voice) : (s.withVoices x).responses = s.responses := rfl
@[simp] theorem withVoices_pending (x : List Voice) : (s.withVoices x).pending = s.pending := rfl
@[simp] theorem withVoices_port (x : List Voice) : (s.withVoices x).port = s.port := rfl

@[simp] theorem withLfoPhase_cfg (x : F32) : (s.withLfoPhase x).cfg = s.cfg := rfl
@[simp] theorem withLfoPhase_settings (x : F32) : (s.withLfoPhase x).settings = s.settings := rfl
@[simp] theorem withLfoPhase_derived (x : F32) : (s.withLfoPhase x).derived = s.derived := rfl
@[simp] theorem withLfoPhase_voices (x : F32) : (s.withLfoPhase x).voices = s.voices := rfl
@[simp] theorem withLfoPhase_lfoPhase (x : F32) : (s.withLfoPhase x).lfoPhase = x := rfl
@[simp] theorem withLfoPhase_svf (x : F32) : (s.withLfoPhase x).svf = s.svf := rfl
@[simp] theorem withLfoPhase_eq (x : F32) : (s.withLfoPhase x).eq = s.eq := rfl
@[simp] theorem withLfoPhase_pool (x : F32) : (s.withLfoPhase x).pool = s.pool := rfl
@[simp] theorem withLfoPhase_status (x : F32) : (s.withLfoPhase x).status = s.status := rfl
@[simp] theorem withLfoPhase_halted (x : F32) : (s.withLfoPhase x).halted = s.halted := rfl
@[simp] theorem withLfoPhase_sampleCount (x : F32) : (s.withLfoPhase x).sampleCount = s.sampleCount := rfl
@[simp] theorem withLfoPhase_frames (x : F32) : (s.withLfoPhase x).frames = s.frames := rfl
@[simp] theorem withLfoPhase_responses (x : F32) : (s.withLfoPhase x).responses = s.responses := rfl
@[simp] theorem withLfoPhase_pending (x : F32) : (s.withLfoPhase x).pending = s.pending := rfl
@[simp] theorem withLfoPhase_port (x : F32) : (s.withLfoPhase x).port = s.port := rfl

@[simp] theorem withSvf_cfg (x : Svf) : (s.withSvf x).cfg = s.cfg := rfl
@[simp] theorem withSvf_settings (x : Svf) : (s.withSvf x).settings = s.settings := rfl
@[simp] theorem withSvf_derived (x : Svf) : (s.withSvf x).derived = s.derived := rfl
@[simp] theorem withSvf_voices (x : Svf) : (s.withSvf x).voices = s.voices := rfl
@[simp] theorem withSvf_lfoPhase (x : Svf) : (s.withSvf x).lfoPhase = s.lfoPhase := rfl
@[simp] theorem withSvf_svf (x : Svf) : (s.withSvf x).svf = x := rfl
@[simp] theorem withSvf_eq (x : Svf) : (s.withSvf x).eq = s.eq := rfl
@[simp] theorem withSvf_pool (x : Svf) : (s.withSvf x).pool = s.pool := rfl
@[simp] theorem withSvf_status (x : Svf) : (s.withSvf x).status = s.status := rfl
@[simp] theorem withSvf_halted (x : Svf) : (s.withSvf x).halted = s.halted := rfl
@[simp] theorem withSvf_sampleCount (x : Svf) : (s.withSvf x).sampleCount = s.sampleCount := rfl
@[simp] theorem withSvf_frames (x : Svf) : (s.withSvf x).frames = s.frames := rfl
@[simp] theorem withSvf_responses (x : Svf) : (s.withSvf x).responses = s.responses := rfl
@[simp] theorem withSvf_pending (x : Svf) : (s.withSvf x).pending = s.pending := rfl
@[simp] theorem withSvf_port (x : Svf) : (s.withSvf x).port = s.port := rfl

@[simp] theorem withEq_cfg (x : Vector EqHistory 3) : (s.withEq x).cfg = s.cfg := rfl
@[simp] theorem withEq_settings (x : Vector EqHistory 3) : (s.withEq x).settings = s.settings := rfl
@[simp] theorem withEq_derived (x : Vector EqHistory 3) : (s.withEq x).derived = s.derived := rfl
@[simp] theorem withEq_voices (x : Vector EqHistory 3) : (s.withEq x).voices = s.voices := rfl
@[simp] theorem withEq_lfoPhase (x : Vector EqHistory 3) : (s.withEq x).lfoPhase = s.lfoPhase := rfl
@[simp] theorem withEq_svf (x : Vector EqHistory 3) : (s.withEq x).svf = s.svf := rfl
@[simp] theorem withEq_eq (x : Vector EqHistory 3) : (s.withEq x).eq = x := rfl
@[simp] theorem withEq_pool (x : Vector EqHistory 3) : (s.withEq x).pool = s.pool := rfl
@[simp] theorem withEq_status (x : Vector EqHistory 3) : (s.withEq x).status = s.status := rfl
@[simp] theorem withEq_halted (x : Vector EqHistory 3) : (s.withEq x).halted = s.halted := rfl
@[simp] theorem withEq_sampleCount (x : Vector EqHistory 3) : (s.withEq x).sampleCount = s.sampleCount := rfl
@[simp] theorem withEq_frames (x : Vector EqHistory 3) : (s.withEq x).frames = s.frames := rfl
@[simp] theorem withEq_responses (x : Vector EqHistory 3) : (s.withEq x).responses = s.responses := rfl
@[simp] theorem withEq_pending (x : Vector EqHistory 3) : (s.withEq x).pending = s.pending := rfl
@[simp] theorem withEq_port (x : Vector EqHistory 3) : (s.withEq x).port = s.port := rfl

@[simp] theorem withPool_cfg (x : Pool) : (s.withPool x).cfg = s.cfg := rfl
@[simp] theorem withPool_settings (x : Pool) : (s.withPool x).settings = s.settings := rfl
@[simp] theorem withPool_derived (x : Pool) : (s.withPool x).derived = s.derived := rfl
@[simp] theorem withPool_voices (x : Pool) : (s.withPool x).voices = s.voices := rfl
@[simp] theorem withPool_lfoPhase (x : Pool) : (s.withPool x).lfoPhase = s.lfoPhase := rfl
@[simp] theorem withPool_svf (x : Pool) : (s.withPool x).svf = s.svf := rfl
@[simp] theorem withPool_eq (x : Pool) : (s.withPool x).eq = s.eq := rfl
@[simp] theorem withPool_pool (x : Pool) : (s.withPool x).pool = x := rfl
@[simp] theorem withPool_status (x : Pool) : (s.withPool x).status = s.status := rfl
@[simp] theorem withPool_halted (x : Pool) : (s.withPool x).halted = s.halted := rfl
@[simp] theorem withPool_sampleCount (x : Pool) : (s.withPool x).sampleCount = s.sampleCount := rfl
@[simp] theorem withPool_frames (x : Pool) : (s.withPool x).frames = s.frames := rfl
@[simp] theorem withPool_responses (x : Pool) : (s.withPool x).responses = s.responses := rfl
@[simp] theorem withPool_pending (x : Pool) : (s.withPool x).pending = s.pending := rfl
@[simp] theorem withPool_port (x : Pool) : (s.withPool x).port = s.port := rfl

@[simp] theorem withStatus_cfg (x : Status) : (s.withStatus x).cfg = s.cfg := rfl
@[simp] theorem withStatus_settings (x : Status) : (s.withStatus x).settings = s.settings := rfl
@[simp] theorem withStatus_derived (x : Status) : (s.withStatus x).derived = s.derived := rfl
@[simp] theorem withStatus_voices (x : Status) : (s.withStatus x).voices = s.voices := rfl
@[simp] theorem withStatus_lfoPhase (x : Status) : (s.withStatus x).lfoPhase = s.lfoPhase := rfl
@[simp] theorem withStatus_svf (x : Status) : (s.withStatus x).svf = s.svf := rfl
@[simp] theorem withStatus_eq (x : Status) : (s.withStatus x).eq = s.eq := rfl
@[simp] theorem withStatus_pool (x : Status) : (s.withStatus x).pool = s.pool := rfl
@[simp] theorem withStatus_status (x : Status) : (s.withStatus x).status = x := rfl
@[simp] theorem withStatus_halted (x : Status) : (s.withStatus x).halted = s.halted := rfl
@[simp] theorem withStatus_sampleCount (x : Status) : (s.withStatus x).sampleCount = s.sampleCount := rfl
@[simp] theorem withStatus_frames (x : Status) : (s.withStatus x).frames = s.frames := rfl
@[simp] theorem withStatus_responses (x : Status) : (s.withStatus x).responses = s.responses := rfl
@[simp] theorem withStatus_pending (x : Status) : (s.withStatus x).pending = s.pending := rfl
@[simp] theorem withStatus_port (x : Status) : (s.withStatus x).port = s.port := rfl

@[simp] theorem withHalted_cfg (x : Bool) : (s.withHalted x).cfg = s.cfg := rfl
@[simp] theorem withHalted_settings (x : Bool) : (s.withHalted x).settings = s.settings := rfl
@[simp] theorem withHalted_derived (x : Bool) : (s.withHalted x).derived = s.derived := rfl
@[simp] theorem withHalted_voices (x : Bool) : (s.withHalted x).voices = s.voices := rfl
@[simp] theorem withHalted_lfoPhase (x : Bool) : (s.withHalted x).lfoPhase = s.lfoPhase := rfl
@[simp] theorem withHalted_svf (x : Bool) : (s.withHalted x).svf = s.svf := rfl
@[simp] theorem withHalted_eq (x : Bool) : (s.withHalted x).eq = s.eq := rfl
@[simp] theorem withHalted_pool (x : Bool) : (s.withHalted x).pool = s.pool := rfl
@[simp] theorem withHalted_status (x : Bool) : (s.withHalted x).status = s.status := rfl
@[simp] theorem withHalted_halted (x : Bool) : (s.withHalted x).halted = x := rfl
@[simp] theorem withHalted_sampleCount (x : Bool) : (s.withHalted x).sampleCount = s.sampleCount := rfl
@[simp] theorem withHalted_frames (x : Bool) : (s.withHalted x).frames = s.frames := rfl
@[simp] theorem withHalted_responses (x : Bool) : (s.withHalted x).responses = s.responses := rfl
@[simp] theorem withHalted_pending (x : Bool) : (s.withHalted x).pending = s.pending := rfl
@[simp] theorem withHalted_port (x : Bool) : (s.withHalted x).port = s.port := rfl

@[simp] theorem withSampleCount_cfg (x : Word) : (s.withSampleCount x).cfg = s.cfg := rfl
@[simp] theorem withSampleCount_settings (x : Word) : (s.withSampleCount x).settings = s.settings := rfl
@[simp] theorem withSampleCount_derived (x : Word) : (s.withSampleCount x).derived = s.derived := rfl
@[simp] theorem withSampleCount_voices (x : Word) : (s.withSampleCount x).voices = s.voices := rfl
@[simp] theorem withSampleCount_lfoPhase (x : Word) : (s.withSampleCount x).lfoPhase = s.lfoPhase := rfl
@[simp] theorem withSampleCount_svf (x : Word) : (s.withSampleCount x).svf = s.svf := rfl
@[simp] theorem withSampleCount_eq (x : Word) : (s.withSampleCount x).eq = s.eq := rfl
@[simp] theorem withSampleCount_pool (x : Word) : (s.withSampleCount x).pool = s.pool := rfl
@[simp] theorem withSampleCount_status (x : Word) : (s.withSampleCount x).status = s.status := rfl
@[simp] theorem withSampleCount_halted (x : Word) : (s.withSampleCount x).halted = s.halted := rfl
@[simp] theorem withSampleCount_sampleCount (x : Word) : (s.withSampleCount x).sampleCount = x := rfl
@[simp] theorem withSampleCount_frames (x : Word) : (s.withSampleCount x).frames = s.frames := rfl
@[simp] theorem withSampleCount_responses (x : Word) : (s.withSampleCount x).responses = s.responses := rfl
@[simp] theorem withSampleCount_pending (x : Word) : (s.withSampleCount x).pending = s.pending := rfl
@[simp] theorem withSampleCount_port (x : Word) : (s.withSampleCount x).port = s.port := rfl

@[simp] theorem withFrames_cfg (x : List Frame) : (s.withFrames x).cfg = s.cfg := rfl
@[simp] theorem withFrames_settings (x : List Frame) : (s.withFrames x).settings = s.settings := rfl
@[simp] theorem withFrames_derived (x : List Frame) : (s.withFrames x).derived = s.derived := rfl
@[simp] theorem withFrames_voices (x : List Frame) : (s.withFrames x).voices = s.voices := rfl
@[simp] theorem withFrames_lfoPhase (x : List Frame) : (s.withFrames x).lfoPhase = s.lfoPhase := rfl
@[simp] theorem withFrames_svf (x : List Frame) : (s.withFrames x).svf = s.svf := rfl
@[simp] theorem withFrames_eq (x : List Frame) : (s.withFrames x).eq = s.eq := rfl
@[simp] theorem withFrames_pool (x : List Frame) : (s.withFrames x).pool = s.pool := rfl
@[simp] theorem withFrames_status (x : List Frame) : (s.withFrames x).status = s.status := rfl
@[simp] theorem withFrames_halted (x : List Frame) : (s.withFrames x).halted = s.halted := rfl
@[simp] theorem withFrames_sampleCount (x : List Frame) : (s.withFrames x).sampleCount = s.sampleCount := rfl
@[simp] theorem withFrames_frames (x : List Frame) : (s.withFrames x).frames = x := rfl
@[simp] theorem withFrames_responses (x : List Frame) : (s.withFrames x).responses = s.responses := rfl
@[simp] theorem withFrames_pending (x : List Frame) : (s.withFrames x).pending = s.pending := rfl
@[simp] theorem withFrames_port (x : List Frame) : (s.withFrames x).port = s.port := rfl

@[simp] theorem withResponses_cfg (x : List Word) : (s.withResponses x).cfg = s.cfg := rfl
@[simp] theorem withResponses_settings (x : List Word) : (s.withResponses x).settings = s.settings := rfl
@[simp] theorem withResponses_derived (x : List Word) : (s.withResponses x).derived = s.derived := rfl
@[simp] theorem withResponses_voices (x : List Word) : (s.withResponses x).voices = s.voices := rfl
@[simp] theorem withResponses_lfoPhase (x : List Word) : (s.withResponses x).lfoPhase = s.lfoPhase := rfl
@[simp] theorem withResponses_svf (x : List Word) : (s.withResponses x).svf = s.svf := rfl
@[simp] theorem withResponses_eq (x : List Word) : (s.withResponses x).eq = s.eq := rfl
@[simp] theorem withResponses_pool (x : List Word) : (s.withResponses x).pool = s.pool := rfl
@[simp] theorem withResponses_status (x : List Word) : (s.withResponses x).status = s.status := rfl
@[simp] theorem withResponses_halted (x : List Word) : (s.withResponses x).halted = s.halted := rfl
@[simp] theorem withResponses_sampleCount (x : List Word) : (s.withResponses x).sampleCount = s.sampleCount := rfl
@[simp] theorem withResponses_frames (x : List Word) : (s.withResponses x).frames = s.frames := rfl
@[simp] theorem withResponses_responses (x : List Word) : (s.withResponses x).responses = x := rfl
@[simp] theorem withResponses_pending (x : List Word) : (s.withResponses x).pending = s.pending := rfl
@[simp] theorem withResponses_port (x : List Word) : (s.withResponses x).port = s.port := rfl

@[simp] theorem withPending_cfg (x : Pending) : (s.withPending x).cfg = s.cfg := rfl
@[simp] theorem withPending_settings (x : Pending) : (s.withPending x).settings = s.settings := rfl
@[simp] theorem withPending_derived (x : Pending) : (s.withPending x).derived = s.derived := rfl
@[simp] theorem withPending_voices (x : Pending) : (s.withPending x).voices = s.voices := rfl
@[simp] theorem withPending_lfoPhase (x : Pending) : (s.withPending x).lfoPhase = s.lfoPhase := rfl
@[simp] theorem withPending_svf (x : Pending) : (s.withPending x).svf = s.svf := rfl
@[simp] theorem withPending_eq (x : Pending) : (s.withPending x).eq = s.eq := rfl
@[simp] theorem withPending_pool (x : Pending) : (s.withPending x).pool = s.pool := rfl
@[simp] theorem withPending_status (x : Pending) : (s.withPending x).status = s.status := rfl
@[simp] theorem withPending_halted (x : Pending) : (s.withPending x).halted = s.halted := rfl
@[simp] theorem withPending_sampleCount (x : Pending) : (s.withPending x).sampleCount = s.sampleCount := rfl
@[simp] theorem withPending_frames (x : Pending) : (s.withPending x).frames = s.frames := rfl
@[simp] theorem withPending_responses (x : Pending) : (s.withPending x).responses = s.responses := rfl
@[simp] theorem withPending_pending (x : Pending) : (s.withPending x).pending = x := rfl
@[simp] theorem withPending_port (x : Pending) : (s.withPending x).port = s.port := rfl

@[simp] theorem withPort_cfg (x : List Arrival) : (s.withPort x).cfg = s.cfg := rfl
@[simp] theorem withPort_settings (x : List Arrival) : (s.withPort x).settings = s.settings := rfl
@[simp] theorem withPort_derived (x : List Arrival) : (s.withPort x).derived = s.derived := rfl
@[simp] theorem withPort_voices (x : List Arrival) : (s.withPort x).voices = s.voices := rfl
@[simp] theorem withPort_lfoPhase (x : List Arrival) : (s.withPort x).lfoPhase = s.lfoPhase := rfl
@[simp] theorem withPort_svf (x : List Arrival) : (s.withPort x).svf = s.svf := rfl
@[simp] theorem withPort_eq (x : List Arrival) : (s.withPort x).eq = s.eq := rfl
@[simp] theorem withPort_pool (x : List Arrival) : (s.withPort x).pool = s.pool := rfl
@[simp] theorem withPort_status (x : List Arrival) : (s.withPort x).status = s.status := rfl
@[simp] theorem withPort_halted (x : List Arrival) : (s.withPort x).halted = s.halted := rfl
@[simp] theorem withPort_sampleCount (x : List Arrival) : (s.withPort x).sampleCount = s.sampleCount := rfl
@[simp] theorem withPort_frames (x : List Arrival) : (s.withPort x).frames = s.frames := rfl
@[simp] theorem withPort_responses (x : List Arrival) : (s.withPort x).responses = s.responses := rfl
@[simp] theorem withPort_pending (x : List Arrival) : (s.withPort x).pending = s.pending := rfl
@[simp] theorem withPort_port (x : List Arrival) : (s.withPort x).port = x := rfl

@[simp] theorem record_cfg (c : Code) : (s.record c).cfg = s.cfg := rfl
@[simp] theorem record_settings (c : Code) : (s.record c).settings = s.settings := rfl
@[simp] theorem record_derived (c : Code) : (s.record c).derived = s.derived := rfl
@[simp] theorem record_voices (c : Code) : (s.record c).voices = s.voices := rfl
@[simp] theorem record_lfoPhase (c : Code) : (s.record c).lfoPhase = s.lfoPhase := rfl
@[simp] theorem record_svf (c : Code) : (s.record c).svf = s.svf := rfl
@[simp] theorem record_eq (c : Code) : (s.record c).eq = s.eq := rfl
@[simp] theorem record_pool (c : Code) : (s.record c).pool = s.pool := rfl
@[simp] theorem record_status (c : Code) : (s.record c).status = recordCode c s.status := rfl
@[simp] theorem record_halted (c : Code) : (s.record c).halted = s.halted := rfl
@[simp] theorem record_sampleCount (c : Code) : (s.record c).sampleCount = s.sampleCount := rfl
@[simp] theorem record_frames (c : Code) : (s.record c).frames = s.frames := rfl
@[simp] theorem record_responses (c : Code) : (s.record c).responses = s.responses := rfl
@[simp] theorem record_pending (c : Code) : (s.record c).pending = s.pending := rfl
@[simp] theorem record_port (c : Code) : (s.record c).port = s.port := rfl

@[simp] theorem emitFrame_cfg (f : Frame) : (s.emitFrame f).cfg = s.cfg := rfl
@[simp] theorem emitFrame_settings (f : Frame) : (s.emitFrame f).settings = s.settings := rfl
@[simp] theorem emitFrame_derived (f : Frame) : (s.emitFrame f).derived = s.derived := rfl
@[simp] theorem emitFrame_voices (f : Frame) : (s.emitFrame f).voices = s.voices := rfl
@[simp] theorem emitFrame_lfoPhase (f : Frame) : (s.emitFrame f).lfoPhase = s.lfoPhase := rfl
@[simp] theorem emitFrame_svf (f : Frame) : (s.emitFrame f).svf = s.svf := rfl
@[simp] theorem emitFrame_eq (f : Frame) : (s.emitFrame f).eq = s.eq := rfl
@[simp] theorem emitFrame_pool (f : Frame) : (s.emitFrame f).pool = s.pool := rfl
@[simp] theorem emitFrame_status (f : Frame) : (s.emitFrame f).status = s.status := rfl
@[simp] theorem emitFrame_halted (f : Frame) : (s.emitFrame f).halted = s.halted := rfl
@[simp] theorem emitFrame_sampleCount (f : Frame) : (s.emitFrame f).sampleCount = s.sampleCount := rfl
@[simp] theorem emitFrame_frames (f : Frame) : (s.emitFrame f).frames = s.frames ++ [f] := rfl
@[simp] theorem emitFrame_responses (f : Frame) : (s.emitFrame f).responses = s.responses := rfl
@[simp] theorem emitFrame_pending (f : Frame) : (s.emitFrame f).pending = s.pending := rfl
@[simp] theorem emitFrame_port (f : Frame) : (s.emitFrame f).port = s.port := rfl

@[simp] theorem respond_cfg (w : Word) : (s.respond w).cfg = s.cfg := rfl
@[simp] theorem respond_settings (w : Word) : (s.respond w).settings = s.settings := rfl
@[simp] theorem respond_derived (w : Word) : (s.respond w).derived = s.derived := rfl
@[simp] theorem respond_voices (w : Word) : (s.respond w).voices = s.voices := rfl
@[simp] theorem respond_lfoPhase (w : Word) : (s.respond w).lfoPhase = s.lfoPhase := rfl
@[simp] theorem respond_svf (w : Word) : (s.respond w).svf = s.svf := rfl
@[simp] theorem respond_eq (w : Word) : (s.respond w).eq = s.eq := rfl
@[simp] theorem respond_pool (w : Word) : (s.respond w).pool = s.pool := rfl
@[simp] theorem respond_status (w : Word) : (s.respond w).status = s.status := rfl
@[simp] theorem respond_halted (w : Word) : (s.respond w).halted = s.halted := rfl
@[simp] theorem respond_sampleCount (w : Word) : (s.respond w).sampleCount = s.sampleCount := rfl
@[simp] theorem respond_frames (w : Word) : (s.respond w).frames = s.frames := rfl
@[simp] theorem respond_responses (w : Word) : (s.respond w).responses = s.responses ++ [w] := rfl
@[simp] theorem respond_pending (w : Word) : (s.respond w).pending = s.pending := rfl
@[simp] theorem respond_port (w : Word) : (s.respond w).port = s.port := rfl

@[simp] theorem withReverbEnable_cfg (on : Bool) : (s.withReverbEnable on).cfg = s.cfg := rfl
@[simp] theorem withReverbEnable_settings (on : Bool) : (s.withReverbEnable on).settings = { s.settings with reverbEnable := on } := rfl
@[simp] theorem withReverbEnable_derived (on : Bool) : (s.withReverbEnable on).derived = s.derived := rfl
@[simp] theorem withReverbEnable_voices (on : Bool) : (s.withReverbEnable on).voices = s.voices := rfl
@[simp] theorem withReverbEnable_lfoPhase (on : Bool) : (s.withReverbEnable on).lfoPhase = s.lfoPhase := rfl
@[simp] theorem withReverbEnable_svf (on : Bool) : (s.withReverbEnable on).svf = s.svf := rfl
@[simp] theorem withReverbEnable_eq (on : Bool) : (s.withReverbEnable on).eq = s.eq := rfl
@[simp] theorem withReverbEnable_pool (on : Bool) : (s.withReverbEnable on).pool = s.pool := rfl
@[simp] theorem withReverbEnable_status (on : Bool) : (s.withReverbEnable on).status = s.status := rfl
@[simp] theorem withReverbEnable_halted (on : Bool) : (s.withReverbEnable on).halted = s.halted := rfl
@[simp] theorem withReverbEnable_sampleCount (on : Bool) : (s.withReverbEnable on).sampleCount = s.sampleCount := rfl
@[simp] theorem withReverbEnable_frames (on : Bool) : (s.withReverbEnable on).frames = s.frames := rfl
@[simp] theorem withReverbEnable_responses (on : Bool) : (s.withReverbEnable on).responses = s.responses := rfl
@[simp] theorem withReverbEnable_pending (on : Bool) : (s.withReverbEnable on).pending = s.pending := rfl
@[simp] theorem withReverbEnable_port (on : Bool) : (s.withReverbEnable on).port = s.port := rfl

@[simp] theorem withDelayEnable_cfg (on : Bool) : (s.withDelayEnable on).cfg = s.cfg := rfl
@[simp] theorem withDelayEnable_settings (on : Bool) : (s.withDelayEnable on).settings = { s.settings with delayEnable := on } := rfl
@[simp] theorem withDelayEnable_derived (on : Bool) : (s.withDelayEnable on).derived = s.derived := rfl
@[simp] theorem withDelayEnable_voices (on : Bool) : (s.withDelayEnable on).voices = s.voices := rfl
@[simp] theorem withDelayEnable_lfoPhase (on : Bool) : (s.withDelayEnable on).lfoPhase = s.lfoPhase := rfl
@[simp] theorem withDelayEnable_svf (on : Bool) : (s.withDelayEnable on).svf = s.svf := rfl
@[simp] theorem withDelayEnable_eq (on : Bool) : (s.withDelayEnable on).eq = s.eq := rfl
@[simp] theorem withDelayEnable_pool (on : Bool) : (s.withDelayEnable on).pool = s.pool := rfl
@[simp] theorem withDelayEnable_status (on : Bool) : (s.withDelayEnable on).status = s.status := rfl
@[simp] theorem withDelayEnable_halted (on : Bool) : (s.withDelayEnable on).halted = s.halted := rfl
@[simp] theorem withDelayEnable_sampleCount (on : Bool) : (s.withDelayEnable on).sampleCount = s.sampleCount := rfl
@[simp] theorem withDelayEnable_frames (on : Bool) : (s.withDelayEnable on).frames = s.frames := rfl
@[simp] theorem withDelayEnable_responses (on : Bool) : (s.withDelayEnable on).responses = s.responses := rfl
@[simp] theorem withDelayEnable_pending (on : Bool) : (s.withDelayEnable on).pending = s.pending := rfl
@[simp] theorem withDelayEnable_port (on : Bool) : (s.withDelayEnable on).port = s.port := rfl

end Sys2Proof.Machine
end

