-- ==== Sys2Proof/Laws/Ops.lean ====
section
/-! SUPPORT. The shared operations of the commands: what the checks before a command can do (60_exceptions.md R290), and what
allocating, freeing and reallocating the effects' buffers can do (45_reverb_delay.md R222, R223, R234, R235, R246). -/

namespace Sys2Proof.Machine

/-- A command that passes the checks is its own rule. -/
theorem checked_pass {exempt reserved nan : Bool} {body : State → Result} {s : State}
    (hh : (s.halted && !exempt) = false) (hr : reserved = false) (hn : nan = false) :
    checked exempt reserved nan body s = body s := by
  simp [checked, hh, hr, hn]

/-- A command with no encoding error is its own rule while the block is not halted. -/
theorem checked_run {exempt : Bool} {body : State → Result} {s : State} (h : s.halted = false) :
    checked exempt false false body s = body s :=
  checked_pass (by simp [h]) rfl rfl

/-- A command that runs while halted, with no encoding error, is its own rule. -/
theorem checked_exempt {body : State → Result} {s : State} : checked true false false body s = body s :=
  checked_pass (by simp) rfl rfl

/-- What a checked command can do: record one of three codes, or follow its own rule. -/
theorem checked_next {exempt reserved nan : Bool} {body : State → Result} {s t : State}
    (h : checked exempt reserved nan body s = .next t) :
    (∃ code, (code = .halted ∨ code = .reservedField ∨ code = .nanOperand) ∧ t = s.record code) ∨
      (s.halted = false ∨ exempt = true) ∧ reserved = false ∧ nan = false ∧ body s = .next t := by
  unfold checked reject at h
  split_ifs at h with h1 h2 h3
  · cases h; exact .inl ⟨_, .inl rfl, rfl⟩
  · cases h; exact .inl ⟨_, .inr (.inl rfl), rfl⟩
  · cases h; exact .inl ⟨_, .inr (.inr rfl), rfl⟩
  · refine .inr ⟨?_, by simpa using h2, by simpa using h3, h⟩
    cases hh : s.halted <;> simp_all

/-- A checked command whose rule always answers a next state answers one. -/
theorem checked_total {exempt reserved nan : Bool} {rule : State → State} (s : State) :
    ∃ t, checked exempt reserved nan (fun s => .next (rule s)) s = .next t := by
  unfold checked reject
  split_ifs <;> exact ⟨_, rfl⟩

/-- A reverb allocation that fits. -/
theorem reverbAlloc_fits {s : State} {p : Pool} (h : tryReverb s.cfg s.settings.sampleRate s.pool = some p) :
    reverbAlloc s = (s.withPool p).withReverbEnable true := by
  simp only [reverbAlloc, settleAlloc, h]
  rfl

/-- A reverb allocation that does not fit. -/
theorem reverbAlloc_fails {s : State} (h : tryReverb s.cfg s.settings.sampleRate s.pool = none) :
    reverbAlloc s = (s.record .reverbAlloc).withReverbEnable false := by
  simp only [reverbAlloc, settleAlloc, h]
  rfl

/-- A delay allocation that fits. -/
theorem delayAlloc_fits {s : State} {p : Pool} (h : tryDelay s.cfg s.derived.delayN s.pool = some p) :
    delayAlloc s = (s.withPool p).withDelayEnable true := by
  simp only [delayAlloc, settleAlloc, h]
  rfl

/-- A delay allocation that does not fit. -/
theorem delayAlloc_fails {s : State} (h : tryDelay s.cfg s.derived.delayN s.pool = none) :
    delayAlloc s = (s.record .delayAlloc).withDelayEnable false := by
  simp only [delayAlloc, settleAlloc, h]
  rfl

/-- What reallocating can do: nothing, or one of the three orders of freeing and allocating. -/
theorem effectsRealloc_cases (s : State) :
    effectsRealloc s = s ∨ effectsRealloc s = reverbAlloc (reverbFree s) ∨ effectsRealloc s = delayAlloc (delayFree s) ∨
      effectsRealloc s = delayAlloc (reverbAlloc (delayFree (reverbFree s))) := by
  unfold effectsRealloc
  cases (s.cfg.reverbLenMode == .scaled && s.pool.rev.allocated) <;> cases s.pool.dly.allocated <;> simp

variable (s : State)

@[simp] theorem reverbAlloc_cfg : (reverbAlloc s).cfg = s.cfg := rfl
@[simp] theorem reverbAlloc_derived : (reverbAlloc s).derived = s.derived := rfl
@[simp] theorem reverbAlloc_voices : (reverbAlloc s).voices = s.voices := rfl
@[simp] theorem reverbAlloc_lfoPhase : (reverbAlloc s).lfoPhase = s.lfoPhase := rfl
@[simp] theorem reverbAlloc_svf : (reverbAlloc s).svf = s.svf := rfl
@[simp] theorem reverbAlloc_eq : (reverbAlloc s).eq = s.eq := rfl
@[simp] theorem reverbAlloc_halted : (reverbAlloc s).halted = s.halted := rfl
@[simp] theorem reverbAlloc_sampleCount : (reverbAlloc s).sampleCount = s.sampleCount := rfl
@[simp] theorem reverbAlloc_frames : (reverbAlloc s).frames = s.frames := rfl
@[simp] theorem reverbAlloc_responses : (reverbAlloc s).responses = s.responses := rfl
@[simp] theorem reverbAlloc_pending : (reverbAlloc s).pending = s.pending := rfl
@[simp] theorem reverbAlloc_port : (reverbAlloc s).port = s.port := rfl

@[simp] theorem reverbFree_cfg : (reverbFree s).cfg = s.cfg := rfl
@[simp] theorem reverbFree_derived : (reverbFree s).derived = s.derived := rfl
@[simp] theorem reverbFree_voices : (reverbFree s).voices = s.voices := rfl
@[simp] theorem reverbFree_lfoPhase : (reverbFree s).lfoPhase = s.lfoPhase := rfl
@[simp] theorem reverbFree_svf : (reverbFree s).svf = s.svf := rfl
@[simp] theorem reverbFree_eq : (reverbFree s).eq = s.eq := rfl
@[simp] theorem reverbFree_halted : (reverbFree s).halted = s.halted := rfl
@[simp] theorem reverbFree_sampleCount : (reverbFree s).sampleCount = s.sampleCount := rfl
@[simp] theorem reverbFree_frames : (reverbFree s).frames = s.frames := rfl
@[simp] theorem reverbFree_responses : (reverbFree s).responses = s.responses := rfl
@[simp] theorem reverbFree_pending : (reverbFree s).pending = s.pending := rfl
@[simp] theorem reverbFree_port : (reverbFree s).port = s.port := rfl
@[simp] theorem reverbFree_status : (reverbFree s).status = s.status := rfl

@[simp] theorem delayAlloc_cfg : (delayAlloc s).cfg = s.cfg := rfl
@[simp] theorem delayAlloc_derived : (delayAlloc s).derived = s.derived := rfl
@[simp] theorem delayAlloc_voices : (delayAlloc s).voices = s.voices := rfl
@[simp] theorem delayAlloc_lfoPhase : (delayAlloc s).lfoPhase = s.lfoPhase := rfl
@[simp] theorem delayAlloc_svf : (delayAlloc s).svf = s.svf := rfl
@[simp] theorem delayAlloc_eq : (delayAlloc s).eq = s.eq := rfl
@[simp] theorem delayAlloc_halted : (delayAlloc s).halted = s.halted := rfl
@[simp] theorem delayAlloc_sampleCount : (delayAlloc s).sampleCount = s.sampleCount := rfl
@[simp] theorem delayAlloc_frames : (delayAlloc s).frames = s.frames := rfl
@[simp] theorem delayAlloc_responses : (delayAlloc s).responses = s.responses := rfl
@[simp] theorem delayAlloc_pending : (delayAlloc s).pending = s.pending := rfl
@[simp] theorem delayAlloc_port : (delayAlloc s).port = s.port := rfl

@[simp] theorem delayFree_cfg : (delayFree s).cfg = s.cfg := rfl
@[simp] theorem delayFree_derived : (delayFree s).derived = s.derived := rfl
@[simp] theorem delayFree_voices : (delayFree s).voices = s.voices := rfl
@[simp] theorem delayFree_lfoPhase : (delayFree s).lfoPhase = s.lfoPhase := rfl
@[simp] theorem delayFree_svf : (delayFree s).svf = s.svf := rfl
@[simp] theorem delayFree_eq : (delayFree s).eq = s.eq := rfl
@[simp] theorem delayFree_halted : (delayFree s).halted = s.halted := rfl
@[simp] theorem delayFree_sampleCount : (delayFree s).sampleCount = s.sampleCount := rfl
@[simp] theorem delayFree_frames : (delayFree s).frames = s.frames := rfl
@[simp] theorem delayFree_responses : (delayFree s).responses = s.responses := rfl
@[simp] theorem delayFree_pending : (delayFree s).pending = s.pending := rfl
@[simp] theorem delayFree_port : (delayFree s).port = s.port := rfl
@[simp] theorem delayFree_status : (delayFree s).status = s.status := rfl

@[simp] theorem effectsRealloc_cfg : (effectsRealloc s).cfg = s.cfg := by
  rcases effectsRealloc_cases s with h | h | h | h <;> rw [h] <;> rfl

@[simp] theorem effectsRealloc_derived : (effectsRealloc s).derived = s.derived := by
  rcases effectsRealloc_cases s with h | h | h | h <;> rw [h] <;> rfl

@[simp] theorem effectsRealloc_voices : (effectsRealloc s).voices = s.voices := by
  rcases effectsRealloc_cases s with h | h | h | h <;> rw [h] <;> rfl

@[simp] theorem effectsRealloc_lfoPhase : (effectsRealloc s).lfoPhase = s.lfoPhase := by
  rcases effectsRealloc_cases s with h | h | h | h <;> rw [h] <;> rfl

@[simp] theorem effectsRealloc_svf : (effectsRealloc s).svf = s.svf := by
  rcases effectsRealloc_cases s with h | h | h | h <;> rw [h] <;> rfl

@[simp] theorem effectsRealloc_eq : (effectsRealloc s).eq = s.eq := by
  rcases effectsRealloc_cases s with h | h | h | h <;> rw [h] <;> rfl

@[simp] theorem effectsRealloc_halted : (effectsRealloc s).halted = s.halted := by
  rcases effectsRealloc_cases s with h | h | h | h <;> rw [h] <;> rfl

@[simp] theorem effectsRealloc_sampleCount : (effectsRealloc s).sampleCount = s.sampleCount := by
  rcases effectsRealloc_cases s with h | h | h | h <;> rw [h] <;> rfl

@[simp] theorem effectsRealloc_frames : (effectsRealloc s).frames = s.frames := by
  rcases effectsRealloc_cases s with h | h | h | h <;> rw [h] <;> rfl

@[simp] theorem effectsRealloc_responses : (effectsRealloc s).responses = s.responses := by
  rcases effectsRealloc_cases s with h | h | h | h <;> rw [h] <;> rfl

@[simp] theorem effectsRealloc_pending : (effectsRealloc s).pending = s.pending := by
  rcases effectsRealloc_cases s with h | h | h | h <;> rw [h] <;> rfl

@[simp] theorem effectsRealloc_port : (effectsRealloc s).port = s.port := by
  rcases effectsRealloc_cases s with h | h | h | h <;> rw [h] <;> rfl

end Sys2Proof.Machine
end

