-- ==== Sys2Proof/Laws/Exec.lean ====
section
/-! SUPPORT. A command with no encoding error, while the block runs, is its own rule (60_exceptions.md R290 check 5): one lemma
per command. -/

namespace Sys2Proof.Machine

open Sys2Proof

@[simp] theorem enableBit_enableField (on : Bool) : enableBit (enableField on) = on := by cases on <;> rfl

@[simp] theorem reservedEnable_enableField (on : Bool) : reservedEnable 0#8 0#8 (enableField on) = false := by
  cases on <;> rfl

theorem exec_nop (s : State) : exec (.nop 0 0 0) s = .next s := by
  simp [exec, execNop, checked, reservedABC]

theorem exec_clearStatus (s : State) : exec (.clearStatus 0 0 0) s = .next (s.withStatus clearedStatus) := by
  simp [exec, execClearStatus, checked, reservedABC]

theorem exec_readReg (s : State) (n : BitVec 8) : exec (.readReg 0 0 n) s = .next (readRegRule n s) := by
  simp [exec, execReadReg, checked, reservedAB]

theorem exec_tick {s : State} (h : s.halted = false) : exec (.tick 0 0 0) s = tickRule s := by
  simp [exec, execTick, checked, reservedABC, h]

theorem exec_noteOn {s : State} (h : s.halted = false) (velocity note : BitVec 8) :
    exec (.noteOn 0 velocity note) s = .next (noteOnRule velocity note s) := by
  simp [exec, execNoteOn, checked, reservedA, h]

theorem exec_setSampleRate {s : State} (h : s.halted = false) (rate : Word) :
    exec (.setSampleRate 0 rate) s = .next (sampleRateRule rate s) := by
  simp [exec, execSetSampleRate, checked, reservedZ, h]

theorem exec_allOff {s : State} (h : s.halted = false) :
    exec (.allOff 0 0 0) s = .next (s.withVoices (s.voices.map silenceVoice)) := by
  simp [exec, execAllOff, checked, reservedABC, h]

theorem exec_shutdown {s : State} (h : s.halted = false) :
    exec (.shutdown 0 0 0) s = .next (shutdownRule s) := by
  simp [exec, execShutdown, checked, reservedABC, h]

theorem exec_setMasterVolume {s : State} (h : s.halted = false) (c : BitVec 8) :
    exec (.setMasterVolume 0 0 c) s = .next (s.withSettings { s.settings with masterVolume := c }) := by
  simp [exec, execSetMasterVolume, checked, reservedAB, h]

theorem exec_setWaveform {s : State} (h : s.halted = false) (c : BitVec 8) :
    exec (.setWaveform 0 0 c) s = .next (s.withSettings { s.settings with waveform := waveformOfCode c.toNat }) := by
  simp [exec, execSetWaveform, checked, reservedAB, h]

theorem exec_setVoiceCount {s : State} (h : s.halted = false) (c : BitVec 8) :
    exec (.setVoiceCount 0 0 c) s = .next (voiceCountRule c s) := by
  simp [exec, execSetVoiceCount, checked, reservedAB, h]

theorem exec_noteOff {s : State} (h : s.halted = false) (c : BitVec 8) :
    exec (.noteOff 0 0 c) s = .next (noteOffRule c s) := by
  simp [exec, execNoteOff, checked, reservedAB, h]

theorem exec_setFilterType {s : State} (h : s.halted = false) (c : BitVec 8) :
    exec (.setFilterType 0 0 c) s = .next (s.withSettings { s.settings with filterType := filterTypeOfCode c.toNat }) := by
  simp [exec, execSetFilterType, checked, reservedAB, h]

theorem exec_setLfoEnable {s : State} (h : s.halted = false) (on : Bool) :
    exec (.setLfoEnable 0 0 (enableField on)) s = .next (s.withSettings { s.settings with lfoEnable := on }) := by
  simp [exec, execSetLfoEnable, checked, h]

theorem exec_setLfoVibrato {s : State} (h : s.halted = false) (on : Bool) :
    exec (.setLfoVibrato 0 0 (enableField on)) s = .next (s.withSettings { s.settings with lfoVibrato := on }) := by
  simp [exec, execSetLfoVibrato, checked, h]

theorem exec_setLfoTremolo {s : State} (h : s.halted = false) (on : Bool) :
    exec (.setLfoTremolo 0 0 (enableField on)) s = .next (s.withSettings { s.settings with lfoTremolo := on }) := by
  simp [exec, execSetLfoTremolo, checked, h]

theorem exec_setFilterEnable {s : State} (h : s.halted = false) (on : Bool) :
    exec (.setFilterEnable 0 0 (enableField on)) s = .next (filterEnableRule on s) := by
  simp [exec, execSetFilterEnable, checked, h]

theorem exec_setEqEnable {s : State} (h : s.halted = false) (on : Bool) :
    exec (.setEqEnable 0 0 (enableField on)) s = .next (eqEnableRule on s) := by
  simp [exec, execSetEqEnable, checked, h]

theorem exec_setReverbEnable {s : State} (h : s.halted = false) (on : Bool) :
    exec (.setReverbEnable 0 0 (enableField on)) s = .next (reverbEnableRule on s) := by
  simp [exec, execSetReverbEnable, checked, h]

theorem exec_setDelayEnable {s : State} (h : s.halted = false) (on : Bool) :
    exec (.setDelayEnable 0 0 (enableField on)) s = .next (delayEnableRule on s) := by
  simp [exec, execSetDelayEnable, checked, h]

theorem exec_setLfoRate {s : State} (h : s.halted = false) {x : Word} (hx : fIsNaN x = false) :
    exec (.setLfoRate 0 x) s
      = .next (lfoRateRule x s) := by
  simp [exec, execSetLfoRate, checked, reservedZ, h, hx]

theorem exec_setLfoDepth {s : State} (h : s.halted = false) {x : Word} (hx : fIsNaN x = false) :
    exec (.setLfoDepth 0 x) s
      = .next (s.withSettings { s.settings with lfoDepth := clampLfoDepth x }) := by
  simp [exec, execSetLfoDepth, checked, reservedZ, h, hx]

theorem exec_setFilterCutoff {s : State} (h : s.halted = false) {x : Word} (hx : fIsNaN x = false) :
    exec (.setFilterCutoff 0 x) s
      = .next (recomputeFilter (s.withSettings { s.settings with filterCutoff := clampCutoff x })) := by
  simp [exec, execSetFilterCutoff, checked, reservedZ, h, hx]

theorem exec_setFilterResonance {s : State} (h : s.halted = false) {x : Word} (hx : fIsNaN x = false) :
    exec (.setFilterResonance 0 x) s
      = .next (recomputeFilter (s.withSettings { s.settings with filterResonance := clampResonance x })) := by
  simp [exec, execSetFilterResonance, checked, reservedZ, h, hx]

theorem exec_setEqBassGain {s : State} (h : s.halted = false) {x : Word} (hx : fIsNaN x = false) :
    exec (.setEqBassGain 0 x) s
      = .next (bassGainRule x s) := by
  simp [exec, execSetEqBassGain, checked, reservedZ, h, hx]

theorem exec_setEqMidGain {s : State} (h : s.halted = false) {x : Word} (hx : fIsNaN x = false) :
    exec (.setEqMidGain 0 x) s
      = .next (midGainRule x s) := by
  simp [exec, execSetEqMidGain, checked, reservedZ, h, hx]

theorem exec_setEqTrebleGain {s : State} (h : s.halted = false) {x : Word} (hx : fIsNaN x = false) :
    exec (.setEqTrebleGain 0 x) s
      = .next (trebleGainRule x s) := by
  simp [exec, execSetEqTrebleGain, checked, reservedZ, h, hx]

theorem exec_setReverbRoomSize {s : State} (h : s.halted = false) {x : Word} (hx : fIsNaN x = false) :
    exec (.setReverbRoomSize 0 x) s
      = .next (roomSizeRule x s) := by
  simp [exec, execSetReverbRoomSize, checked, reservedZ, h, hx]

theorem exec_setReverbDamping {s : State} (h : s.halted = false) {x : Word} (hx : fIsNaN x = false) :
    exec (.setReverbDamping 0 x) s
      = .next (s.withSettings { s.settings with reverbDamping := clampUnit x }) := by
  simp [exec, execSetReverbDamping, checked, reservedZ, h, hx]

theorem exec_setReverbWet {s : State} (h : s.halted = false) {x : Word} (hx : fIsNaN x = false) :
    exec (.setReverbWet 0 x) s
      = .next (s.withSettings { s.settings with reverbWet := clampUnit x }) := by
  simp [exec, execSetReverbWet, checked, reservedZ, h, hx]

theorem exec_setDelayTime {s : State} (h : s.halted = false) {x : Word} (hx : fIsNaN x = false) :
    exec (.setDelayTime 0 x) s
      = .next (delayTimeRule x s) := by
  simp [exec, execSetDelayTime, checked, reservedZ, h, hx]

theorem exec_setDelayFeedback {s : State} (h : s.halted = false) {x : Word} (hx : fIsNaN x = false) :
    exec (.setDelayFeedback 0 x) s
      = .next (s.withSettings { s.settings with delayFeedback := clampFeedback x }) := by
  simp [exec, execSetDelayFeedback, checked, reservedZ, h, hx]

theorem exec_setDelayMix {s : State} (h : s.halted = false) {x : Word} (hx : fIsNaN x = false) :
    exec (.setDelayMix 0 x) s
      = .next (s.withSettings { s.settings with delayMix := clampMix x }) := by
  simp [exec, execSetDelayMix, checked, reservedZ, h, hx]

end Sys2Proof.Machine
end

