-- ==== Sys2Proof/Laws/Float.lean ====
section
/-! SUPPORT. Rounding (00_scope.md R12): the finite magnitudes in order, what rounding can give, and from it that every operation
stays below and above each F that bounds the exact result. -/

namespace Sys2Proof.Machine

/-! ### Magnitudes by their bits -/

/-- The magnitude of the bits 30:0 of an F, in units of 2^-149; it goes on rising past the largest F. -/
def patternUnits (p : Nat) : Nat := if p / 2 ^ 23 = 0 then p % 2 ^ 23 else (2 ^ 23 + p % 2 ^ 23) * 2 ^ (p / 2 ^ 23 - 1)

/-- The bits 30:0 of an F. -/
def fBits (x : F32) : Nat := x.toNat % 2 ^ 31

/-- The magnitude of a significand q at the exponent e. -/
theorem patternUnits_of {e q : Nat} (h : e = 0 ∨ 2 ^ 23 ≤ q) (hq : q ≤ 2 ^ 24) :
    patternUnits (e * 2 ^ 23 + q) = q * 2 ^ e := by
  unfold patternUnits
  rcases Nat.lt_or_ge q (2 ^ 23) with h1 | h1
  · have he : e = 0 := by omega
    subst he
    have : (0 * 2 ^ 23 + q) / 2 ^ 23 = 0 := by omega
    rw [if_pos this]
    omega
  · rcases Nat.lt_or_ge q (2 ^ 24) with h2 | h2
    · have hd : (e * 2 ^ 23 + q) / 2 ^ 23 = e + 1 := by omega
      have hm : (e * 2 ^ 23 + q) % 2 ^ 23 = q - 2 ^ 23 := by omega
      rw [hd, hm, if_neg (by omega), Nat.add_sub_cancel, Nat.add_sub_cancel' h1]
    · have hq' : q = 2 ^ 24 := by omega
      have hd : (e * 2 ^ 23 + q) / 2 ^ 23 = e + 2 := by omega
      have hm : (e * 2 ^ 23 + q) % 2 ^ 23 = 0 := by omega
      rw [hd, hm, if_neg (by omega), hq']
      show (2 ^ 23 + 0) * 2 ^ (e + 1) = _
      rw [pow_succ]
      ring

/-- Every pattern is a significand at an exponent. -/
theorem pattern_split (p : Nat) : ∃ e q, p = e * 2 ^ 23 + q ∧ (e = 0 ∨ 2 ^ 23 ≤ q) ∧ q < 2 ^ 24 := by
  refine ⟨p / 2 ^ 23 - 1, p - (p / 2 ^ 23 - 1) * 2 ^ 23, ?_, ?_, ?_⟩ <;> omega

/-- Magnitudes rise with their bits. -/
theorem patternUnits_strictMono : StrictMono patternUnits := by
  refine strictMono_nat_of_lt_succ fun p => ?_
  obtain ⟨e, q, rfl, he, hq⟩ := pattern_split p
  have h1 := patternUnits_of he (by omega : q ≤ 2 ^ 24)
  have h2 := patternUnits_of (e := e) (q := q + 1) (by omega) (by omega)
  rw [Nat.add_assoc, h1, h2]
  exact Nat.mul_lt_mul_of_pos_right (by omega) (Nat.two_pow_pos e)

/-- The exponent at which n/d is rounded. -/
def roundExponent (n d : Nat) : Nat := Nat.log2 (n / d) - 23

/-- The significand below n/d. -/
def roundFloor (n d : Nat) : Nat := n / (d * 2 ^ roundExponent n d)

/-- Where n/d lies: between two neighbouring significands at its exponent. -/
theorem round_between (n : Nat) {d : Nat} (hd : 0 < d) :
    (roundExponent n d = 0 ∨ 2 ^ 23 ≤ roundFloor n d) ∧ roundFloor n d < 2 ^ 24 ∧
      roundFloor n d * (d * 2 ^ roundExponent n d) ≤ n ∧ n < (roundFloor n d + 1) * (d * 2 ^ roundExponent n d) := by
  have hs : 0 < d * 2 ^ roundExponent n d := Nat.mul_pos hd (Nat.two_pow_pos _)
  refine ⟨?_, ?_, Nat.div_mul_le_self _ _, ?_⟩
  · by_cases h : roundExponent n d = 0
    · exact .inl h
    · right
      unfold roundFloor
      rw [← Nat.div_div_eq_div_mul]
      have hl : 23 < Nat.log2 (n / d) := by unfold roundExponent at h; omega
      have hk : n / d ≠ 0 := by intro h0; rw [h0] at hl; simp at hl
      have hp := Nat.log2_self_le hk
      rw [Nat.le_div_iff_mul_le (Nat.two_pow_pos _), ← pow_add]
      refine le_trans (le_of_eq ?_) hp
      congr 1
      unfold roundExponent
      omega
  · unfold roundFloor
    rw [← Nat.div_div_eq_div_mul, Nat.div_lt_iff_lt_mul (Nat.two_pow_pos _), ← pow_add]
    refine lt_of_lt_of_le (Nat.lt_log2_self (n := n / d)) (Nat.pow_le_pow_right (by omega) ?_)
    unfold roundExponent
    omega
  · unfold roundFloor
    rw [Nat.mul_comm]
    exact Nat.lt_mul_div_succ n hs

/-- The rounded bits before the overflow bound. -/
def roundPattern (n d : Nat) : Nat :=
  let step := d * 2 ^ roundExponent n d
  let r := n % step
  roundExponent n d * 2 ^ 23
    + if 2 * r > step ∨ (2 * r = step ∧ roundFloor n d % 2 = 1) then roundFloor n d + 1 else roundFloor n d

theorem fRoundMagnitude_eq (n d : Nat) : fRoundMagnitude n d = min (roundPattern n d) 0x7F800000 := rfl

/-- Rounding takes the significand below or the one above, never the farther one, and at a tie the even one. -/
theorem roundPattern_cases (n : Nat) {d : Nat} (_hd : 0 < d) :
    let step := d * 2 ^ roundExponent n d
    let q := roundFloor n d
    (roundPattern n d = roundExponent n d * 2 ^ 23 + q ∧ 2 * (n - q * step) ≤ step ∧
        (2 * (n - q * step) = step → q % 2 = 0)) ∨
      (roundPattern n d = roundExponent n d * 2 ^ 23 + (q + 1) ∧ step ≤ 2 * (n - q * step) ∧
        (2 * (n - q * step) = step → q % 2 = 1)) := by
  intro step q
  have hr : n % step = n - q * step := by
    have := Nat.div_add_mod n step
    have hq : q * step = step * (n / step) := Nat.mul_comm _ _
    omega
  unfold roundPattern
  simp only
  change ((_ + if 2 * (n % step) > step ∨ (2 * (n % step) = step ∧ q % 2 = 1) then _ else _) = _ ∧ _) ∨ _
  rw [hr]
  split_ifs with h
  · right
    refine ⟨rfl, by omega, fun h2 => by omega⟩
  · left
    refine ⟨rfl, by omega, fun h2 => by omega⟩

/-- The magnitude of the significand below n/d and of the one above. -/
theorem patternUnits_roundFloor (n : Nat) {d : Nat} (hd : 0 < d) :
    patternUnits (roundExponent n d * 2 ^ 23 + roundFloor n d) = roundFloor n d * 2 ^ roundExponent n d ∧
      patternUnits (roundExponent n d * 2 ^ 23 + (roundFloor n d + 1))
        = (roundFloor n d + 1) * 2 ^ roundExponent n d := by
  obtain ⟨h1, h2, _, _⟩ := round_between n hd
  exact ⟨patternUnits_of h1 (by omega), patternUnits_of (by omega) (by omega)⟩

/-- What is at most an F is rounded to at most it. -/
theorem roundPattern_le {n d m : Nat} (hd : 0 < d) (h : n ≤ patternUnits m * d) : roundPattern n d ≤ m := by
  by_contra hc
  rw [Nat.not_le] at hc
  obtain ⟨_, _, hb, hb'⟩ := round_between n hd
  obtain ⟨u1, u2⟩ := patternUnits_roundFloor n hd
  have hs : 0 < d * 2 ^ roundExponent n d := Nat.mul_pos hd (Nat.two_pow_pos _)
  have e : ∀ q, q * 2 ^ roundExponent n d * d = q * (d * 2 ^ roundExponent n d) := fun q => by ring
  rcases roundPattern_cases n hd with ⟨hp, hr, _⟩ | ⟨hp, hr, _⟩
  · rw [hp] at hc
    have := patternUnits_strictMono hc
    rw [u1] at this
    have := Nat.mul_lt_mul_of_pos_right this hd
    rw [e] at this
    omega
  · rw [hp] at hc
    have := patternUnits_strictMono.monotone (show m ≤ roundExponent n d * 2 ^ 23 + roundFloor n d by omega)
    rw [u1] at this
    have := Nat.mul_le_mul_right d this
    rw [e] at this
    omega

/-- What is at least an F is rounded to at least it. -/
theorem le_roundPattern {n d m : Nat} (hd : 0 < d) (h : patternUnits m * d ≤ n) : m ≤ roundPattern n d := by
  by_contra hc
  rw [Nat.not_le] at hc
  obtain ⟨h1, h2, hb, hb'⟩ := round_between n hd
  obtain ⟨u1, u2⟩ := patternUnits_roundFloor n hd
  have e : ∀ q, q * 2 ^ roundExponent n d * d = q * (d * 2 ^ roundExponent n d) := fun q => by ring
  have above : roundExponent n d * 2 ^ 23 + (roundFloor n d + 1) ≤ m := by
    rcases roundPattern_cases n hd with ⟨hp, _, _⟩ | ⟨hp, _, _⟩ <;> omega
  have := patternUnits_strictMono.monotone above
  rw [u2] at this
  have := Nat.mul_le_mul_right d this
  rw [e] at this
  omega

/-- What is at most an F is rounded to at most it. -/
theorem fRoundMagnitude_le {n d m : Nat} (hd : 0 < d) (h : n ≤ patternUnits m * d) : fRoundMagnitude n d ≤ m := by
  rw [fRoundMagnitude_eq]
  exact le_trans (Nat.min_le_left _ _) (roundPattern_le hd h)

/-- What is at least an F is rounded to at least it. -/
theorem le_fRoundMagnitude {n d m : Nat} (hd : 0 < d) (hm : m ≤ 0x7F800000) (h : patternUnits m * d ≤ n) :
    m ≤ fRoundMagnitude n d := by
  rw [fRoundMagnitude_eq]
  exact Nat.le_min.2 ⟨le_roundPattern hd h, hm⟩

/-- What is an F is rounded to itself. -/
theorem fRoundMagnitude_exact {n d m : Nat} (hd : 0 < d) (hm : m ≤ 0x7F800000) (h : n = patternUnits m * d) :
    fRoundMagnitude n d = m :=
  le_antisymm (fRoundMagnitude_le hd h.le) (le_fRoundMagnitude hd hm h.ge)

/-! ### Packing -/

theorem fRoundMagnitude_le_inf (n d : Nat) : fRoundMagnitude n d ≤ 0x7F800000 := by
  rw [fRoundMagnitude_eq]
  exact Nat.min_le_right _ _

theorem fPack_toNat (s : Bool) {m : Nat} (hm : m < 2 ^ 31) :
    (fPack s m).toNat = (if s then 2 ^ 31 else 0) + m := by
  unfold fPack
  rw [BitVec.toNat_ofNat]
  cases s <;> simp <;> omega

@[simp] theorem fBits_fPack (s : Bool) {m : Nat} (hm : m < 2 ^ 31) : fBits (fPack s m) = m := by
  unfold fBits
  rw [fPack_toNat s hm]
  cases s <;> simp <;> omega

theorem fSign_eq (x : F32) : fSign x = decide (2 ^ 31 ≤ x.toNat) := by
  unfold fSign
  rw [BitVec.msb_eq_decide]

@[simp] theorem fSign_fPack (s : Bool) {m : Nat} (hm : m < 2 ^ 31) : fSign (fPack s m) = s := by
  rw [fSign_eq, fPack_toNat s hm]
  cases s <;> simp <;> omega

theorem fBits_lt (x : F32) : fBits x < 2 ^ 31 := Nat.mod_lt _ (by norm_num)

/-- An F is its sign and its bits 30:0. -/
theorem fPack_fBits (x : F32) : fPack (fSign x) (fBits x) = x := by
  apply BitVec.eq_of_toNat_eq
  rw [fPack_toNat _ (fBits_lt x), fSign_eq]
  have := x.isLt
  unfold fBits
  simp only [decide_eq_true_eq]
  split <;> omega

theorem fExponent_eq (x : F32) : fExponent x = fBits x / 2 ^ 23 := by
  unfold fExponent fBits
  omega

theorem fFraction_eq (x : F32) : fFraction x = fBits x % 2 ^ 23 := by
  unfold fFraction fBits
  omega

/-- The magnitude is that of the bits. -/
theorem fMagnitude_eq (x : F32) : fMagnitude x = patternUnits (fBits x) := by
  unfold fMagnitude patternUnits
  rw [fExponent_eq, fFraction_eq]

theorem fIsFinite_iff (x : F32) : fIsFinite x = true ↔ fBits x < 0x7F800000 := by
  have := fBits_lt x
  unfold fIsFinite
  rw [fExponent_eq, bne_iff_ne]
  omega

theorem fIsNaN_iff (x : F32) : fIsNaN x = true ↔ 0x7F800000 < fBits x := by
  have := fBits_lt x
  unfold fIsNaN
  rw [fExponent_eq, fFraction_eq, Bool.and_eq_true, beq_iff_eq, bne_iff_ne]
  omega

theorem fIsInf_iff (x : F32) : fIsInf x = true ↔ fBits x = 0x7F800000 := by
  have := fBits_lt x
  unfold fIsInf
  rw [fExponent_eq, fFraction_eq, Bool.and_eq_true, beq_iff_eq, beq_iff_eq]
  omega

theorem not_nan_of_finite {x : F32} (h : fIsFinite x = true) : fIsNaN x = false := by
  rw [Bool.eq_false_iff, ne_eq, fIsNaN_iff]
  rw [fIsFinite_iff] at h
  omega

theorem not_inf_of_finite {x : F32} (h : fIsFinite x = true) : fIsInf x = false := by
  rw [Bool.eq_false_iff, ne_eq, fIsInf_iff]
  rw [fIsFinite_iff] at h
  omega

/-- Not a NaN: finite or infinite. -/
theorem fBits_le_of_not_nan {x : F32} (h : fIsNaN x = false) : fBits x ≤ 0x7F800000 := by
  rw [Bool.eq_false_iff, ne_eq, fIsNaN_iff] at h
  omega

/-! ### Signed rounding -/

@[simp] theorem fBits_fRound (s : Bool) (n d : Nat) : fBits (fRound s n d) = fRoundMagnitude n d :=
  fBits_fPack s (lt_of_le_of_lt (fRoundMagnitude_le_inf n d) (by norm_num))

@[simp] theorem fSign_fRound (s : Bool) (n d : Nat) : fSign (fRound s n d) = s :=
  fSign_fPack s (lt_of_le_of_lt (fRoundMagnitude_le_inf n d) (by norm_num))

@[simp] theorem fIsNaN_fRound (s : Bool) (n d : Nat) : fIsNaN (fRound s n d) = false := by
  rw [Bool.eq_false_iff, ne_eq, fIsNaN_iff, fBits_fRound]
  have := fRoundMagnitude_le_inf n d
  omega

/-- The signed numerator of an exact result. -/
def signed (s : Bool) (n : Nat) : Int := if s then -(n : Int) else n

theorem fUnits_eq (x : F32) : fUnits x = signed (fSign x) (fMagnitude x) := rfl

/-- A rounded result stays at or below every F (no NaN) that the exact result is at or below. -/
theorem fRound_le {s : Bool} {n d : Nat} {z : F32} (hd : 0 < d) (hz : fIsNaN z = false)
    (h : signed s n ≤ fUnits z * d) : fUnits (fRound s n d) ≤ fUnits z := by
  have hb := fBits_le_of_not_nan hz
  rw [fUnits_eq, fMagnitude_eq] at h ⊢
  rw [fUnits_eq z, fSign_fRound, fMagnitude_eq, fBits_fRound]
  cases s <;> cases hs : fSign z <;> simp only [signed, hs, if_true, if_false, Bool.false_eq_true] at h ⊢
  · have h' : n ≤ patternUnits (fBits z) * d := by exact_mod_cast h
    exact_mod_cast patternUnits_strictMono.monotone (fRoundMagnitude_le hd h')
  · have h0 : (n : Int) + (patternUnits (fBits z) * d : Nat) ≤ 0 := by push_cast; linarith
    have h1 : patternUnits (fBits z) * d = 0 := by omega
    have h2 : patternUnits (fBits z) = 0 := by
      rcases Nat.mul_eq_zero.1 h1 with h | h
      · exact h
      · omega
    have h3 : fRoundMagnitude n d ≤ 0 := fRoundMagnitude_le hd (by omega)
    have h4 : patternUnits (fRoundMagnitude n d) ≤ patternUnits 0 := patternUnits_strictMono.monotone h3
    have h5 : patternUnits 0 = 0 := rfl
    omega
  · have := Int.natCast_nonneg (patternUnits (fRoundMagnitude n d))
    have := Int.natCast_nonneg (patternUnits (fBits z))
    omega
  · have h' : patternUnits (fBits z) * d ≤ n := by
      have : ((patternUnits (fBits z) * d : Nat) : Int) ≤ n := by push_cast; linarith
      exact_mod_cast this
    have := patternUnits_strictMono.monotone (le_fRoundMagnitude hd hb h')
    omega

theorem fUnits_fRound_neg (s : Bool) (n d : Nat) : fUnits (fRound (!s) n d) = -fUnits (fRound s n d) := by
  rw [fUnits_eq, fUnits_eq, fMagnitude_eq, fMagnitude_eq, fBits_fRound, fBits_fRound, fSign_fRound, fSign_fRound]
  cases s <;> simp [signed]

theorem signed_not (s : Bool) (n : Nat) : signed (!s) n = -signed s n := by cases s <;> simp [signed]

@[simp] theorem fSign_fNeg (x : F32) : fSign (fNeg x) = !fSign x := by
  unfold fSign fNeg
  rw [BitVec.msb_xor]
  cases x.msb <;> rfl

@[simp] theorem fBits_fNeg (x : F32) : fBits (fNeg x) = fBits x := by
  unfold fBits fNeg
  apply Nat.eq_of_testBit_eq
  intro i
  rw [Nat.testBit_mod_two_pow, Nat.testBit_mod_two_pow, BitVec.toNat_xor, Nat.testBit_xor]
  by_cases h : i < 31
  · have : Nat.testBit (BitVec.toNat (0x80000000 : F32)) i = false := by
      show Nat.testBit (2 ^ 31) i = false
      rw [Nat.testBit_two_pow]
      simp
      omega
    rw [this, Bool.xor_false]
  · simp [h]

@[simp] theorem fUnits_fNeg (x : F32) : fUnits (fNeg x) = -fUnits x := by
  rw [fUnits_eq, fUnits_eq, fMagnitude_eq, fMagnitude_eq, fBits_fNeg, fSign_fNeg, signed_not]

@[simp] theorem fIsNaN_fNeg (x : F32) : fIsNaN (fNeg x) = fIsNaN x := by
  rw [Bool.eq_iff_iff, fIsNaN_iff, fIsNaN_iff, fBits_fNeg]

@[simp] theorem fIsFinite_fNeg (x : F32) : fIsFinite (fNeg x) = fIsFinite x := by
  rw [Bool.eq_iff_iff, fIsFinite_iff, fIsFinite_iff, fBits_fNeg]

@[simp] theorem fIsInf_fNeg (x : F32) : fIsInf (fNeg x) = fIsInf x := by
  rw [Bool.eq_iff_iff, fIsInf_iff, fIsInf_iff, fBits_fNeg]

/-- A rounded result stays at or above every F (no NaN) that the exact result is at or above. -/
theorem le_fRound {s : Bool} {n d : Nat} {z : F32} (hd : 0 < d) (hz : fIsNaN z = false)
    (h : fUnits z * d ≤ signed s n) : fUnits z ≤ fUnits (fRound s n d) := by
  have := fRound_le (s := !s) (n := n) (z := fNeg z) hd (by rw [fIsNaN_fNeg, hz])
    (by rw [signed_not, fUnits_fNeg]; linarith)
  rw [fUnits_fRound_neg, fUnits_fNeg] at this
  omega

/-- What is an F (no NaN) is rounded to its value. -/
theorem fRound_exact {s : Bool} {n d : Nat} {z : F32} (hd : 0 < d) (hz : fIsNaN z = false)
    (h : signed s n = fUnits z * d) : fUnits (fRound s n d) = fUnits z :=
  le_antisymm (fRound_le hd hz h.le) (le_fRound hd hz h.ge)

/-- Two F of one value and one sign are the same pattern. -/
theorem eq_of_fUnits_eq {x y : F32} (h : fUnits x = fUnits y) (hs : fSign x = fSign y) : x = y := by
  rw [fUnits_eq, fUnits_eq, fMagnitude_eq, fMagnitude_eq, hs] at h
  have h' : patternUnits (fBits x) = patternUnits (fBits y) := by
    cases hc : fSign y <;> rw [hc] at h <;> simp only [signed, if_true, if_false, Bool.false_eq_true] at h <;> omega
  rw [← fPack_fBits x, ← fPack_fBits y, hs, patternUnits_strictMono.injective h']

/-- The magnitude is the absolute value. -/
theorem natAbs_fUnits (x : F32) : (fUnits x).natAbs = fMagnitude x := by
  rw [fUnits_eq]
  cases fSign x <;> simp [signed]

theorem fMagnitude_inf : patternUnits 0x7F800000 = 2 ^ 277 := by
  rw [show 0x7F800000 = 254 * 2 ^ 23 + 2 ^ 23 by norm_num, patternUnits_of (by norm_num) (by norm_num), ← pow_add]

/-- A finite F is below 2^277 units, an infinity there. -/
theorem fMagnitude_lt_of_finite {x : F32} (h : fIsFinite x = true) : fMagnitude x < 2 ^ 277 := by
  rw [fMagnitude_eq, ← fMagnitude_inf]
  exact patternUnits_strictMono ((fIsFinite_iff x).1 h)

theorem finite_of_fMagnitude_lt {x : F32} (h : fMagnitude x < 2 ^ 277) : fIsFinite x = true := by
  rw [fMagnitude_eq, ← fMagnitude_inf, patternUnits_strictMono.lt_iff_lt] at h
  exact (fIsFinite_iff x).2 h

/-! ### The operations on finite operands -/

theorem fAdd_finite {x y : F32} (hx : fIsFinite x = true) (hy : fIsFinite y = true) :
    fAdd x y = fRound (if fUnits x + fUnits y = 0 then fSign x && fSign y else decide (fUnits x + fUnits y < 0))
      (fUnits x + fUnits y).natAbs 1 := by
  unfold fAdd fSum
  rw [not_nan_of_finite hx, not_nan_of_finite hy, not_inf_of_finite hx, not_inf_of_finite hy]
  rfl

theorem fSub_finite {x y : F32} (hx : fIsFinite x = true) (hy : fIsFinite y = true) :
    fSub x y = fRound (if fUnits x - fUnits y = 0 then fSign x && !fSign y else decide (fUnits x - fUnits y < 0))
      (fUnits x - fUnits y).natAbs 1 := by
  unfold fSub fSum
  rw [not_nan_of_finite hx, not_nan_of_finite hy, fIsInf_fNeg, not_inf_of_finite hx, not_inf_of_finite hy, fUnits_fNeg,
    fSign_fNeg]
  rfl

theorem fMul_finite {x y : F32} (hx : fIsFinite x = true) (hy : fIsFinite y = true) :
    fMul x y = fRound (fSign x != fSign y) (fMagnitude x * fMagnitude y) fOneUnits := by
  unfold fMul
  rw [not_nan_of_finite hx, not_nan_of_finite hy, not_inf_of_finite hx, not_inf_of_finite hy]
  rfl

theorem fDiv_finite {x y : F32} (hx : fIsFinite x = true) (hy : fIsFinite y = true) (h : fMagnitude y ≠ 0) :
    fDiv x y = fRound (fSign x != fSign y) (fMagnitude x * fOneUnits) (fMagnitude y) := by
  unfold fDiv
  rw [not_nan_of_finite hx, not_nan_of_finite hy, not_inf_of_finite hx, not_inf_of_finite hy]
  simp [h]

/-- The exact value that addition and subtraction round. -/
theorem signed_natAbs (v : Int) (b : Bool) : signed (if v = 0 then b else decide (v < 0)) v.natAbs = v := by
  unfold signed
  rcases lt_trichotomy v 0 with h | h | h
  · rw [if_neg h.ne, decide_eq_true h, if_pos rfl]
    omega
  · subst h
    cases b <;> rfl
  · rw [if_neg h.ne', decide_eq_false (by omega), if_neg (by decide)]
    omega

theorem signed_mul (x y : F32) : signed (fSign x != fSign y) (fMagnitude x * fMagnitude y) = fUnits x * fUnits y := by
  rw [fUnits_eq, fUnits_eq]
  cases fSign x <;> cases fSign y <;> simp [signed]

/-- What a product rounds. -/
theorem fMul_signed (x y : F32) (k : Nat) :
    signed (fSign x != fSign y) (fMagnitude x * k) * fMagnitude y = fUnits x * fUnits y * k := by
  rw [fUnits_eq, fUnits_eq]
  cases fSign x <;> cases fSign y <;> simp [signed] <;> ring

theorem fOneUnits_pos : 0 < fOneUnits := Nat.two_pow_pos _

theorem fAdd_le {x y z : F32} (hx : fIsFinite x = true) (hy : fIsFinite y = true) (hz : fIsNaN z = false)
    (h : fUnits x + fUnits y ≤ fUnits z) : fUnits (fAdd x y) ≤ fUnits z := by
  rw [fAdd_finite hx hy]
  exact fRound_le Nat.one_pos hz (by rw [signed_natAbs]; simpa using h)

theorem le_fAdd {x y z : F32} (hx : fIsFinite x = true) (hy : fIsFinite y = true) (hz : fIsNaN z = false)
    (h : fUnits z ≤ fUnits x + fUnits y) : fUnits z ≤ fUnits (fAdd x y) := by
  rw [fAdd_finite hx hy]
  exact le_fRound Nat.one_pos hz (by rw [signed_natAbs]; simpa using h)

theorem fSub_le {x y z : F32} (hx : fIsFinite x = true) (hy : fIsFinite y = true) (hz : fIsNaN z = false)
    (h : fUnits x - fUnits y ≤ fUnits z) : fUnits (fSub x y) ≤ fUnits z := by
  rw [fSub_finite hx hy]
  exact fRound_le Nat.one_pos hz (by rw [signed_natAbs]; simpa using h)

theorem le_fSub {x y z : F32} (hx : fIsFinite x = true) (hy : fIsFinite y = true) (hz : fIsNaN z = false)
    (h : fUnits z ≤ fUnits x - fUnits y) : fUnits z ≤ fUnits (fSub x y) := by
  rw [fSub_finite hx hy]
  exact le_fRound Nat.one_pos hz (by rw [signed_natAbs]; simpa using h)

theorem fMul_le {x y z : F32} (hx : fIsFinite x = true) (hy : fIsFinite y = true) (hz : fIsNaN z = false)
    (h : fUnits x * fUnits y ≤ fUnits z * fOneUnits) : fUnits (fMul x y) ≤ fUnits z := by
  rw [fMul_finite hx hy]
  exact fRound_le fOneUnits_pos hz (by rw [signed_mul]; exact h)

theorem le_fMul {x y z : F32} (hx : fIsFinite x = true) (hy : fIsFinite y = true) (hz : fIsNaN z = false)
    (h : fUnits z * fOneUnits ≤ fUnits x * fUnits y) : fUnits z ≤ fUnits (fMul x y) := by
  rw [fMul_finite hx hy]
  exact le_fRound fOneUnits_pos hz (by rw [signed_mul]; exact h)

/-- Division of a nonnegative F by a positive one. -/
theorem fDiv_le {x y z : F32} (hx : fIsFinite x = true) (hy : fIsFinite y = true) (hz : fIsNaN z = false)
    (hpos : 0 < fUnits y) (h : fUnits x * fOneUnits ≤ fUnits z * fUnits y) : fUnits (fDiv x y) ≤ fUnits z := by
  have hm := natAbs_fUnits y
  rw [fDiv_finite hx hy (by omega)]
  refine fRound_le (by omega) hz ?_
  have e : ((fMagnitude y : Nat) : Int) = fUnits y := by omega
  have hs : fSign y = false := by
    cases hc : fSign y with
    | false => rfl
    | true => rw [fUnits_eq, hc] at hpos; simp only [signed, if_true] at hpos; omega
  rw [e, hs]
  refine le_trans (le_of_eq ?_) h
  rw [fUnits_eq x]
  cases fSign x <;> simp [signed]

theorem le_fDiv {x y z : F32} (hx : fIsFinite x = true) (hy : fIsFinite y = true) (hz : fIsNaN z = false)
    (hpos : 0 < fUnits y) (h : fUnits z * fUnits y ≤ fUnits x * fOneUnits) : fUnits z ≤ fUnits (fDiv x y) := by
  have hm := natAbs_fUnits y
  rw [fDiv_finite hx hy (by omega)]
  refine le_fRound (by omega) hz ?_
  have e : ((fMagnitude y : Nat) : Int) = fUnits y := by omega
  have hs : fSign y = false := by
    cases hc : fSign y with
    | false => rfl
    | true => rw [fUnits_eq, hc] at hpos; simp only [signed, if_true] at hpos; omega
  rw [e, hs]
  refine le_trans h (le_of_eq ?_)
  rw [fUnits_eq x]
  cases fSign x <;> simp [signed]

/-- An F between two finite ones is finite. -/
theorem finite_of_between {x lo hi : F32} (hlo : fIsFinite lo = true) (hhi : fIsFinite hi = true)
    (h1 : fUnits lo ≤ fUnits x) (h2 : fUnits x ≤ fUnits hi) : fIsFinite x = true := by
  apply finite_of_fMagnitude_lt
  have a := fMagnitude_lt_of_finite hlo
  have b := fMagnitude_lt_of_finite hhi
  rw [← natAbs_fUnits] at a b ⊢
  omega

/-- The range test of a setting, by values. -/
theorem fInRange_units {lo x hi : F32} :
    (fLe lo x && fLe x hi) = true ↔
      fIsNaN lo = false ∧ fIsNaN x = false ∧ fIsNaN hi = false ∧ fUnits lo ≤ fUnits x ∧ fUnits x ≤ fUnits hi := by
  unfold fLe
  simp only [Bool.and_eq_true, Bool.not_eq_true', decide_eq_true_eq]
  tauto

/-- An integer of at most 24 bits is an F. -/
theorem fOfNat_units {n : Nat} (h : n ≤ 2 ^ 24) : fUnits (fOfNat n) = n * fOneUnits ∧ fIsFinite (fOfNat n) = true := by
  have key : fRoundMagnitude (n * fOneUnits) 1 ≤ 0x7F800000 - 1 ∧
      patternUnits (fRoundMagnitude (n * fOneUnits) 1) = n * fOneUnits := by
    by_cases h0 : n = 0
    · subst h0
      rw [Nat.zero_mul]
      exact ⟨by decide, by decide⟩
    · -- the significand of n, scaled to 24 bits
      have hl : Nat.log2 n ≤ 24 := by
        have := (Nat.log2_lt (n := n) (k := 25) h0).2 (lt_of_le_of_lt h (by norm_num))
        omega
      have h1 := Nat.log2_self_le h0
      have h2 := Nat.lt_log2_self (n := n)
      obtain ⟨e, q, hq, hn, he⟩ : ∃ e q, (2 ^ 23 ≤ q ∧ q ≤ 2 ^ 24) ∧ n * fOneUnits = q * 2 ^ e ∧ e ≤ 150 := by
        by_cases h24 : Nat.log2 n = 24
        · have : n = 2 ^ 24 := by rw [h24] at h1; omega
          exact ⟨150, 2 ^ 23, ⟨by norm_num, by norm_num⟩, by rw [this]; unfold fOneUnits; norm_num, by norm_num⟩
        · refine ⟨149 - (23 - Nat.log2 n), n * 2 ^ (23 - Nat.log2 n), ⟨?_, ?_⟩, ?_, by omega⟩
          · calc 2 ^ 23 = 2 ^ Nat.log2 n * 2 ^ (23 - Nat.log2 n) := by rw [← pow_add]; congr 1; omega
              _ ≤ _ := Nat.mul_le_mul_right _ h1
          · calc n * 2 ^ (23 - Nat.log2 n) ≤ 2 ^ (Nat.log2 n + 1) * 2 ^ (23 - Nat.log2 n) :=
                  Nat.mul_le_mul_right _ (by omega)
              _ = 2 ^ 24 := by rw [← pow_add]; congr 1; omega
          · unfold fOneUnits
            rw [Nat.mul_assoc, ← pow_add]
            congr 2
            omega
      have hu := patternUnits_of (e := e) (.inr hq.1) hq.2
      have hm : fRoundMagnitude (n * fOneUnits) 1 = e * 2 ^ 23 + q :=
        fRoundMagnitude_exact Nat.one_pos (by omega) (by rw [hu, hn, Nat.mul_one])
      rw [hm, hu, hn]
      exact ⟨by omega, rfl⟩
  unfold fOfNat
  constructor
  · rw [fUnits_eq, fMagnitude_eq, fBits_fRound, fSign_fRound, key.2]
    simp [signed]
  · rw [fIsFinite_iff, fBits_fRound]
    omega

@[simp] theorem fSign_fOfNat (n : Nat) : fSign (fOfNat n) = false := fSign_fRound _ _ _

/-- A product of F is the F of the exact product. -/
theorem fMul_exact {x y z : F32} (hx : fIsFinite x = true) (hy : fIsFinite y = true) (hz : fIsNaN z = false)
    (h : fUnits x * fUnits y = fUnits z * fOneUnits) : fUnits (fMul x y) = fUnits z :=
  le_antisymm (fMul_le hx hy hz h.le) (le_fMul hx hy hz h.ge)

/-- A quotient of F is the F of the exact quotient. -/
theorem fDiv_exact {x y z : F32} (hx : fIsFinite x = true) (hy : fIsFinite y = true) (hz : fIsNaN z = false)
    (hpos : 0 < fUnits y) (h : fUnits x * fOneUnits = fUnits z * fUnits y) : fUnits (fDiv x y) = fUnits z :=
  le_antisymm (fDiv_le hx hy hz hpos h.le) (le_fDiv hx hy hz hpos h.ge)

/-- A sum of F is the F of the exact sum. -/
theorem fAdd_exact {x y z : F32} (hx : fIsFinite x = true) (hy : fIsFinite y = true) (hz : fIsNaN z = false)
    (h : fUnits x + fUnits y = fUnits z) : fUnits (fAdd x y) = fUnits z :=
  le_antisymm (fAdd_le hx hy hz h.le) (le_fAdd hx hy hz h.ge)

/-- A difference of F is the F of the exact difference. -/
theorem fSub_exact {x y z : F32} (hx : fIsFinite x = true) (hy : fIsFinite y = true) (hz : fIsNaN z = false)
    (h : fUnits x - fUnits y = fUnits z) : fUnits (fSub x y) = fUnits z :=
  le_antisymm (fSub_le hx hy hz h.le) (le_fSub hx hy hz h.ge)

/-- The product of two integers below 2^24. -/
theorem fMul_fOfNat {a b : Nat} (ha : a ≤ 2 ^ 24) (hb : b ≤ 2 ^ 24) (h : a * b ≤ 2 ^ 24) :
    fMul (fOfNat a) (fOfNat b) = fOfNat (a * b) := by
  obtain ⟨ua, fa⟩ := fOfNat_units ha
  obtain ⟨ub, fb⟩ := fOfNat_units hb
  obtain ⟨uc, fc⟩ := fOfNat_units h
  apply eq_of_fUnits_eq
  · apply fMul_exact fa fb (not_nan_of_finite fc)
    rw [ua, ub, uc]
    push_cast
    ring
  · rw [fMul_finite fa fb, fSign_fRound, fSign_fOfNat, fSign_fOfNat, fSign_fOfNat]
    rfl

theorem fUnits_fOfNat_pos {n : Nat} (h : 1 ≤ n) (hn : n ≤ 2 ^ 24) : 0 < fUnits (fOfNat n) := by
  rw [(fOfNat_units hn).1]
  have := fOneUnits_pos
  positivity

/-- A quotient of integers below 2^24 that is an integer. -/
theorem fDiv_fOfNat {k n : Nat} (hk : k ≤ 2 ^ 24) (h1 : 1 ≤ n) (hn : n ≤ 2 ^ 24) (h : k * n ≤ 2 ^ 24) :
    fDiv (fOfNat (k * n)) (fOfNat n) = fOfNat k := by
  obtain ⟨uk, fk⟩ := fOfNat_units hk
  obtain ⟨un, fn⟩ := fOfNat_units hn
  obtain ⟨uc, fc⟩ := fOfNat_units h
  have hp := fUnits_fOfNat_pos h1 hn
  apply eq_of_fUnits_eq
  · apply fDiv_exact fc fn (not_nan_of_finite fk) hp
    rw [uk, un, uc]
    push_cast
    ring
  · have := natAbs_fUnits (fOfNat n)
    rw [fDiv_finite fc fn (by omega), fSign_fRound, fSign_fOfNat, fSign_fOfNat, fSign_fOfNat]
    rfl

theorem fUnits_nonneg {x : F32} (h : fSign x = false) : 0 ≤ fUnits x := by
  rw [fUnits_eq, h]
  exact Int.natCast_nonneg _

theorem fUnits_fOfNat_nonneg (n : Nat) : 0 ≤ fUnits (fOfNat n) := fUnits_nonneg (fSign_fOfNat n)

theorem fUnits_fOfNat_le {a b : Nat} (hb : b ≤ 2 ^ 24) (h : a ≤ b) : fUnits (fOfNat a) ≤ fUnits (fOfNat b) := by
  rw [(fOfNat_units (h.trans hb)).1, (fOfNat_units hb).1]
  exact mul_le_mul_of_nonneg_right (by exact_mod_cast h) (Int.natCast_nonneg _)

theorem fOfNat_finite {n : Nat} (h : n ≤ 2 ^ 24) : fIsFinite (fOfNat n) = true := (fOfNat_units h).2

theorem fOfNat_not_nan (n : Nat) : fIsNaN (fOfNat n) = false := fIsNaN_fRound _ _ _

theorem fUnits_zero : fUnits (fOfNat 0) = 0 := by
  rw [(fOfNat_units (Nat.zero_le _)).1]
  simp

/-- A difference of integers below 2^24. -/
theorem fSub_fOfNat {a b : Nat} (ha : a ≤ 2 ^ 24) (h : b ≤ a) : fSub (fOfNat a) (fOfNat b) = fOfNat (a - b) := by
  obtain ⟨ua, fa⟩ := fOfNat_units ha
  obtain ⟨ub, fb⟩ := fOfNat_units (h.trans ha)
  obtain ⟨uc, fc⟩ := fOfNat_units ((Nat.sub_le a b).trans ha)
  have e : fUnits (fOfNat a) - fUnits (fOfNat b) = fUnits (fOfNat (a - b)) := by
    rw [ua, ub, uc]
    push_cast [h]
    ring
  apply eq_of_fUnits_eq
  · exact fSub_exact fa fb (not_nan_of_finite fc) e
  · rw [fSub_finite fa fb, fSign_fRound, e, fSign_fOfNat, fSign_fOfNat, fSign_fOfNat]
    have := not_lt.2 (fUnits_fOfNat_nonneg (a - b))
    simp [this]

end Sys2Proof.Machine
end

