-- ==== Sys2Proof/Laws/PerInstr.lean ====
section
/-! SUPPORT. The statement made of every command: a format-A command is one word, a format-P command two (30_encoding.md
R96). -/

namespace Sys2Proof.Laws

open Sys2Proof

/-- The number of words of a format (30_encoding.md R96). -/
def wordsOfFormat : Format → Nat
  | .a => 1
  | .p => 2

/-- The encoding of a command has the length of its format. -/
def EncodingLength.Statement (i : Instr) : Prop := (encode i).length = wordsOfFormat (formatOf i)

theorem EncodingLength.nop (a b c : BitVec 8) : EncodingLength.Statement (.nop a b c) := rfl
theorem EncodingLength.tick (a b c : BitVec 8) : EncodingLength.Statement (.tick a b c) := rfl
theorem EncodingLength.noteOn (a velocity note : BitVec 8) : EncodingLength.Statement (.noteOn a velocity note) := rfl
theorem EncodingLength.noteOff (a b note : BitVec 8) : EncodingLength.Statement (.noteOff a b note) := rfl
theorem EncodingLength.allOff (a b c : BitVec 8) : EncodingLength.Statement (.allOff a b c) := rfl
theorem EncodingLength.setMasterVolume (a b volume : BitVec 8) : EncodingLength.Statement (.setMasterVolume a b volume) := rfl
theorem EncodingLength.setWaveform (a b code : BitVec 8) : EncodingLength.Statement (.setWaveform a b code) := rfl
theorem EncodingLength.setVoiceCount (a b count : BitVec 8) : EncodingLength.Statement (.setVoiceCount a b count) := rfl
theorem EncodingLength.setSampleRate (z : BitVec 24) (rate : Word) : EncodingLength.Statement (.setSampleRate z rate) := rfl
theorem EncodingLength.setLfoEnable (a b c : BitVec 8) : EncodingLength.Statement (.setLfoEnable a b c) := rfl
theorem EncodingLength.setLfoVibrato (a b c : BitVec 8) : EncodingLength.Statement (.setLfoVibrato a b c) := rfl
theorem EncodingLength.setLfoTremolo (a b c : BitVec 8) : EncodingLength.Statement (.setLfoTremolo a b c) := rfl
theorem EncodingLength.setLfoRate (z : BitVec 24) (rate : Word) : EncodingLength.Statement (.setLfoRate z rate) := rfl
theorem EncodingLength.setLfoDepth (z : BitVec 24) (depth : Word) : EncodingLength.Statement (.setLfoDepth z depth) := rfl
theorem EncodingLength.setFilterEnable (a b c : BitVec 8) : EncodingLength.Statement (.setFilterEnable a b c) := rfl
theorem EncodingLength.setFilterType (a b code : BitVec 8) : EncodingLength.Statement (.setFilterType a b code) := rfl
theorem EncodingLength.setFilterCutoff (z : BitVec 24) (cutoff : Word) : EncodingLength.Statement (.setFilterCutoff z cutoff) := rfl
theorem EncodingLength.setFilterResonance (z : BitVec 24) (resonance : Word) : EncodingLength.Statement (.setFilterResonance z resonance) := rfl
theorem EncodingLength.setEqEnable (a b c : BitVec 8) : EncodingLength.Statement (.setEqEnable a b c) := rfl
theorem EncodingLength.setEqBassGain (z : BitVec 24) (gain : Word) : EncodingLength.Statement (.setEqBassGain z gain) := rfl
theorem EncodingLength.setEqMidGain (z : BitVec 24) (gain : Word) : EncodingLength.Statement (.setEqMidGain z gain) := rfl
theorem EncodingLength.setEqTrebleGain (z : BitVec 24) (gain : Word) : EncodingLength.Statement (.setEqTrebleGain z gain) := rfl
theorem EncodingLength.setReverbEnable (a b c : BitVec 8) : EncodingLength.Statement (.setReverbEnable a b c) := rfl
theorem EncodingLength.setReverbRoomSize (z : BitVec 24) (roomSize : Word) : EncodingLength.Statement (.setReverbRoomSize z roomSize) := rfl
theorem EncodingLength.setReverbDamping (z : BitVec 24) (damping : Word) : EncodingLength.Statement (.setReverbDamping z damping) := rfl
theorem EncodingLength.setReverbWet (z : BitVec 24) (wet : Word) : EncodingLength.Statement (.setReverbWet z wet) := rfl
theorem EncodingLength.setDelayEnable (a b c : BitVec 8) : EncodingLength.Statement (.setDelayEnable a b c) := rfl
theorem EncodingLength.setDelayTime (z : BitVec 24) (time : Word) : EncodingLength.Statement (.setDelayTime z time) := rfl
theorem EncodingLength.setDelayFeedback (z : BitVec 24) (feedback : Word) : EncodingLength.Statement (.setDelayFeedback z feedback) := rfl
theorem EncodingLength.setDelayMix (z : BitVec 24) (mix : Word) : EncodingLength.Statement (.setDelayMix z mix) := rfl
theorem EncodingLength.readReg (a b number : BitVec 8) : EncodingLength.Statement (.readReg a b number) := rfl
theorem EncodingLength.clearStatus (a b c : BitVec 8) : EncodingLength.Statement (.clearStatus a b c) := rfl
theorem EncodingLength.shutdown (a b c : BitVec 8) : EncodingLength.Statement (.shutdown a b c) := rfl

end Sys2Proof.Laws
end

