-- ==== Sys2Proof/Laws/Rules.lean ====
section
/-! SUPPORT. What a command can do, said once (60_exceptions.md R290): record a code, or follow its own rule; and what a TICK
can do (46_mixer.md R250, R253). -/

namespace Sys2Proof.Machine

open Sys2Proof

/-- The rule of a command that is not TICK, as a function of the state; TICK's is `tickRule`. -/
def ruleOf (i : Instr) (s : State) : State :=
  match i with
  | .nop _ _ _ => s
  | .tick _ _ _ => s
  | .noteOn _ velocity note => noteOnRule velocity note s
  | .noteOff _ _ note => noteOffRule note s
  | .allOff _ _ _ => s.withVoices (s.voices.map silenceVoice)
  | .setMasterVolume _ _ volume => s.withSettings { s.settings with masterVolume := volume }
  | .setWaveform _ _ code => s.withSettings { s.settings with waveform := waveformOfCode code.toNat }
  | .setVoiceCount _ _ count => voiceCountRule count s
  | .setSampleRate _ rate => sampleRateRule rate s
  | .setLfoEnable _ _ c => s.withSettings { s.settings with lfoEnable := enableBit c }
  | .setLfoVibrato _ _ c => s.withSettings { s.settings with lfoVibrato := enableBit c }
  | .setLfoTremolo _ _ c => s.withSettings { s.settings with lfoTremolo := enableBit c }
  | .setLfoRate _ rate => lfoRateRule rate s
  | .setLfoDepth _ depth => s.withSettings { s.settings with lfoDepth := clampLfoDepth depth }
  | .setFilterEnable _ _ c => filterEnableRule (enableBit c) s
  | .setFilterType _ _ code => s.withSettings { s.settings with filterType := filterTypeOfCode code.toNat }
  | .setFilterCutoff _ cutoff => recomputeFilter (s.withSettings { s.settings with filterCutoff := clampCutoff cutoff })
  | .setFilterResonance _ resonance =>
    recomputeFilter (s.withSettings { s.settings with filterResonance := clampResonance resonance })
  | .setEqEnable _ _ c => eqEnableRule (enableBit c) s
  | .setEqBassGain _ gain => bassGainRule gain s
  | .setEqMidGain _ gain => midGainRule gain s
  | .setEqTrebleGain _ gain => trebleGainRule gain s
  | .setReverbEnable _ _ c => reverbEnableRule (enableBit c) s
  | .setReverbRoomSize _ roomSize => roomSizeRule roomSize s
  | .setReverbDamping _ damping => s.withSettings { s.settings with reverbDamping := clampUnit damping }
  | .setReverbWet _ wet => s.withSettings { s.settings with reverbWet := clampUnit wet }
  | .setDelayEnable _ _ c => delayEnableRule (enableBit c) s
  | .setDelayTime _ time => delayTimeRule time s
  | .setDelayFeedback _ feedback => s.withSettings { s.settings with delayFeedback := clampFeedback feedback }
  | .setDelayMix _ mix => s.withSettings { s.settings with delayMix := clampMix mix }
  | .readReg _ _ number => readRegRule number s
  | .clearStatus _ _ _ => s.withStatus clearedStatus
  | .shutdown _ _ _ => shutdownRule s

/-- Is this command TICK? -/
def isTick : Instr → Prop
  | .tick _ _ _ => True
  | _ => False

/-- What a command can do: record one of three codes and nothing else, or, past the checks, follow its rule. -/
theorem exec_cases {i : Instr} {s t : State} (h : exec i s = .next t) :
    (∃ code, (code = .halted ∨ code = .reservedField ∨ code = .nanOperand) ∧ t = s.record code) ∨
      (s.halted = false ∨ runsWhileHalted i = true) ∧ (∀ x, floatOperand i = some x → fIsNaN x = false) ∧
        (isTick i ∧ tickRule s = .next t ∨ ¬ isTick i ∧ t = ruleOf i s) := by
  cases i <;> simp only [exec,
    execNop, execTick, execNoteOn, execNoteOff, execAllOff, execSetMasterVolume, execSetWaveform, execSetVoiceCount,
    execSetSampleRate, execSetLfoEnable, execSetLfoVibrato, execSetLfoTremolo, execSetLfoRate, execSetLfoDepth,
    execSetFilterEnable, execSetFilterType, execSetFilterCutoff, execSetFilterResonance, execSetEqEnable,
    execSetEqBassGain, execSetEqMidGain, execSetEqTrebleGain, execSetReverbEnable, execSetReverbRoomSize,
    execSetReverbDamping, execSetReverbWet, execSetDelayEnable, execSetDelayTime, execSetDelayFeedback,
    execSetDelayMix, execReadReg, execClearStatus, execShutdown] at h <;>
    rcases checked_next h with h | ⟨hh, _, hn, h⟩ <;>
    first
      | exact .inl h
      | exact .inr ⟨hh, (by intro x hx; cases hx; exact hn), .inr ⟨id, by cases h; rfl⟩⟩
      | exact .inr ⟨hh, (by intro x hx; cases hx), .inr ⟨id, by cases h; rfl⟩⟩
      | exact .inr ⟨hh, (by intro x hx; cases hx), .inl ⟨trivial, h⟩⟩

/-- A command that is not TICK answers a next state, always. -/
theorem exec_total {i : Instr} {s : State} (hi : ¬ isTick i) : ∃ t, exec i s = .next t := by
  cases i <;> first
    | exact (hi trivial).elim
    | (simp only [exec,
        execNop, execNoteOn, execNoteOff, execAllOff, execSetMasterVolume, execSetWaveform, execSetVoiceCount,
        execSetSampleRate, execSetLfoEnable, execSetLfoVibrato, execSetLfoTremolo, execSetLfoRate, execSetLfoDepth,
        execSetFilterEnable, execSetFilterType, execSetFilterCutoff, execSetFilterResonance, execSetEqEnable,
        execSetEqBassGain, execSetEqMidGain, execSetEqTrebleGain, execSetReverbEnable, execSetReverbRoomSize,
        execSetReverbDamping, execSetReverbWet, execSetDelayEnable, execSetDelayTime, execSetDelayFeedback,
        execSetDelayMix, execReadReg, execClearStatus, execShutdown]
       exact checked_total s)

/-- What no rule but TICK's changes. -/
structure RuleFrame (s t : State) : Prop where
  cfg : t.cfg = s.cfg
  lfoPhase : t.lfoPhase = s.lfoPhase
  sampleCount : t.sampleCount = s.sampleCount
  frames : t.frames = s.frames
  pending : t.pending = s.pending
  port : t.port = s.port

theorem RuleFrame.refl (s : State) : RuleFrame s s := ⟨rfl, rfl, rfl, rfl, rfl, rfl⟩

theorem RuleFrame.trans {s t u : State} (h : RuleFrame s t) (h' : RuleFrame t u) : RuleFrame s u :=
  ⟨h'.cfg.trans h.cfg, h'.lfoPhase.trans h.lfoPhase, h'.sampleCount.trans h.sampleCount, h'.frames.trans h.frames,
    h'.pending.trans h.pending, h'.port.trans h.port⟩

theorem sampleRateRule_frame (rate : Word) (s : State) : RuleFrame s (sampleRateRule rate s) := by
  unfold sampleRateRule
  dsimp only
  split
  · exact ⟨rfl, rfl, rfl, rfl, rfl, rfl⟩
  · exact ⟨by simp, by simp, by simp, by simp, by simp, by simp⟩

theorem readRegRule_frame (n : BitVec 8) (s : State) : RuleFrame s (readRegRule n s) := by
  unfold readRegRule
  split <;> exact ⟨rfl, rfl, rfl, rfl, rfl, rfl⟩

theorem shutdownRule_frame (s : State) : RuleFrame s (shutdownRule s) := by
  unfold shutdownRule
  dsimp only
  split_ifs <;> exact ⟨rfl, rfl, rfl, rfl, rfl, rfl⟩

/-- The rule of a command that is not TICK leaves the parameters, the LFO's phase, the counter and the streams of frames and
arrivals. -/
theorem ruleOf_frame (i : Instr) (s : State) : RuleFrame s (ruleOf i s) := by
  cases i <;> unfold ruleOf <;> first
    | exact sampleRateRule_frame _ s
    | exact readRegRule_frame _ s
    | exact shutdownRule_frame s
    | exact ⟨rfl, rfl, rfl, rfl, rfl, rfl⟩
    | (simp only [filterEnableRule, eqEnableRule, reverbEnableRule, delayEnableRule]
       split_ifs <;> exact ⟨rfl, rfl, rfl, rfl, rfl, rfl⟩)

/-- Only READ_REG's rule responds. -/
theorem ruleOf_responses (i : Instr) (s : State) :
    (ruleOf i s).responses = s.responses ∨
      (∃ a b c, i = .readReg a b c) ∧ ∃ w, (ruleOf i s).responses = s.responses ++ [w] := by
  cases i
  case readReg a b n =>
    refine .inr ⟨⟨_, _, _, rfl⟩, ?_⟩
    unfold ruleOf readRegRule
    dsimp only
    split <;> exact ⟨_, rfl⟩
  all_goals
    left
    unfold ruleOf
    first
      | rfl
      | (simp only [filterEnableRule, eqEnableRule, reverbEnableRule, delayEnableRule]; split_ifs <;> rfl)
      | (unfold sampleRateRule; dsimp only; split <;> simp)
      | (unfold shutdownRule; dsimp only; split_ifs <;> rfl)

/-- What the reverb's stage did to the pool. -/
def reverbStaged (s : State) (p : Pool) : Prop :=
  s.settings.reverbEnable = false ∧ p = s.pool ∨
    s.settings.reverbEnable = true ∧ ∃ x y, reverbRun s.cfg s.settings s.derived.reverbFb x s.pool = .ok (y, p)

/-- What the delay's stage did to the pool after the reverb's. -/
def delayStaged (s : State) (p p' : Pool) : Prop :=
  s.settings.delayEnable = false ∧ p' = p ∨
    s.settings.delayEnable = true ∧ ∃ x y, delayRun s.cfg s.settings s.derived.delayD x p = .ok (y, p')

/-- What a TICK does, if it answers: the LFO's phase, the voices, the effects' own state, SAMPLE_COUNT and one frame. -/
theorem tickRule_next {s t : State} (h : tickRule s = .next t) :
    ∃ (svf : Svf) (eq : Vector EqHistory 3) (p p' : Pool) (m : F32),
      t =
        { s with
          lfoPhase := (tickVoices s).2.lfoPhase
          voices := (tickVoices s).2.voices
          svf := svf
          eq := eq
          pool := p'
          sampleCount := s.sampleCount + 1
          frames := s.frames ++ [frameOf s.cfg (toInt16 m)] } ∧
      (s.settings.filterEnable = false → svf = s.svf) ∧ (s.settings.eqEnable = false → eq = s.eq) ∧
      reverbStaged s p ∧ delayStaged s p p' := by
  unfold tickRule effectsChain at h
  dsimp only at h
  generalize hm : (tickVoices s).1 = m0 at h
  generalize hs : (tickVoices s).2 = s0 at h
  have e0 : s0 = { s with lfoPhase := s0.lfoPhase, voices := s0.voices } := by subst hs; rfl
  obtain ⟨svf, e1, f1⟩ : ∃ svf, (filterStage m0 s0).2 = { s0 with svf := svf } ∧
      (s0.settings.filterEnable = false → svf = s0.svf) := by
    unfold filterStage
    split
    · rename_i hc
      exact ⟨_, rfl, fun hf => by rw [hf] at hc; cases hc⟩
    · exact ⟨s0.svf, rfl, fun _ => rfl⟩
  generalize hm1 : (filterStage m0 s0).1 = m1 at h
  generalize hs1 : (filterStage m0 s0).2 = s1 at h e1
  obtain ⟨eq, e2, f2⟩ : ∃ eq, (eqStage m1 s1).2 = { s1 with eq := eq } ∧
      (s1.settings.eqEnable = false → eq = s1.eq) := by
    unfold eqStage
    split
    · rename_i hc
      exact ⟨_, rfl, fun hf => by rw [hf] at hc; cases hc⟩
    · exact ⟨s1.eq, rfl, fun _ => rfl⟩
  generalize hm2 : (eqStage m1 s1).1 = m2 at h
  generalize hs2 : (eqStage m1 s1).2 = s2 at h e2
  have c2 : s2.cfg = s.cfg ∧ s2.settings = s.settings ∧ s2.derived = s.derived ∧ s2.pool = s.pool := by
    subst e2 e1
    rw [e0]
    exact ⟨rfl, rfl, rfl, rfl⟩
  rcases h3 : reverbStage m2 s2 with e | ⟨m3, s3⟩ <;> rw [h3] at h
  · cases h
  · dsimp only at h
    rcases h5 : delayStage m3 s3 with e | ⟨m5, s5⟩ <;> rw [h5] at h
    · cases h
    · cases h
      obtain ⟨p, e3, r3⟩ : ∃ p, s3 = { s2 with pool := p } ∧ reverbStaged s p := by
        unfold reverbStage at h3
        rw [c2.1, c2.2.1, c2.2.2.1, c2.2.2.2] at h3
        split at h3
        · rename_i he
          split at h3
          · cases h3
          · rename_i y q hq
            cases h3
            exact ⟨q, rfl, .inr ⟨he, _, _, hq⟩⟩
        · rename_i he
          cases h3
          refine ⟨s.pool, ?_, .inl ⟨by simpa using he, rfl⟩⟩
          rw [← c2.2.2.2]
      obtain ⟨p', e5, r5⟩ : ∃ p', s5 = { s3 with pool := p' } ∧ delayStaged s p p' := by
        unfold delayStage at h5
        have c3 : s3.cfg = s.cfg ∧ s3.settings = s.settings ∧ s3.derived = s.derived ∧ s3.pool = p := by
          subst e3
          exact ⟨c2.1, c2.2.1, c2.2.2.1, rfl⟩
        rw [c3.1, c3.2.1, c3.2.2.1, c3.2.2.2] at h5
        split at h5
        · rename_i he
          split at h5
          · cases h5
          · rename_i y q hq
            cases h5
            exact ⟨q, rfl, .inr ⟨he, _, _, hq⟩⟩
        · rename_i he
          cases h5
          refine ⟨p, ?_, .inl ⟨by simpa using he, rfl⟩⟩
          rw [← c3.2.2.2]
      refine ⟨svf, eq, p, p', m5, ?_, ?_, ?_, r3, r5⟩
      · subst e5 e3 e2 e1
        rw [e0]
        rfl
      · intro hf
        have := f1 (by rw [e0]; exact hf)
        rw [this, e0]
      · intro hf
        have := f2 (by subst e1; rw [e0]; exact hf)
        rw [this, e1, e0]

end Sys2Proof.Machine
end

