-- ==== Sys2Proof/Laws/Step.lean ====
section
/-! SUPPORT. What a step can do, said once (00_scope.md R16, 30_encoding.md R99): stay at the end of a run, take a reset, latch a
first word, run a command, or record an undefined opcode. -/

namespace Sys2Proof.Machine

/-- Every way in which a step answers a next state. -/
theorem step_cases {s t : State} (h : step s = .next t) :
    isInstance s.cfg = true ∧
    ((s.port = [] ∧ t = s) ∨ (∃ rest, s.port = .reset :: rest ∧ t = resetArrival rest s) ∨
      ∃ agent w rest, s.port = .word agent w :: rest ∧
        ((fetchWords (pendingOf s.pending agent) w = .first ∧ t = takeWord agent w rest s) ∨
          (∃ i, fetchWords (pendingOf s.pending agent) w = .command i ∧ exec i (takeWord agent w rest s) = .next t) ∨
          (fetchWords (pendingOf s.pending agent) w = .undefined ∧
            t = (takeWord agent w rest s).record .illegalOpcode))) := by
  unfold step at h
  split at h
  · refine ⟨‹_›, ?_⟩
    split at h
    · cases h
      exact .inl ⟨‹_›, rfl⟩
    · cases h
      exact .inr (.inl ⟨_, ‹_›, rfl⟩)
    · refine .inr (.inr ⟨_, _, _, ‹_›, ?_⟩)
      split at h
      · cases h
        exact .inl ⟨‹_›, rfl⟩
      · exact .inr (.inl ⟨_, ‹_›, h⟩)
      · cases h
        exact .inr (.inr ⟨‹_›, rfl⟩)
  · cases h

end Sys2Proof.Machine
end

