-- ==== Sys2Proof/Tests/Slice0.lean ====
section
/-! SUPPORT. The author's tests: ill-formed terms that the checks refuse, the decoding of every command, one-step vectors of
95_test_vectors.md, and for every statement with hypotheses a state and operands that meet them. -/

namespace Sys2Proof.Tests

-- one theorem after another: each is a kernel evaluation, and many at once need many threads
set_option Elab.async false

open Sys2Proof Sys2Proof.Machine

/-- What a result's state shows, if it is a next state. -/
def seen {α : Type} (r : Result) (f : State → α) : Option α :=
  match r with
  | .next t => some (f t)
  | .fault _ => none
  | .refused _ => none

/-- The state right after reset in TC. -/
def start : State := State.reset

/-- The state of a halted block. -/
def stopped : State := start.withHalted true

/-- A voice that sounds note 69 at velocity 127 at 28160 Hz (95_test_vectors.md P1: increment 2^-6). -/
def soundingVoice (waveform : Waveform) (state : EnvState) (counter : Word) : Voice :=
  { active := true, note := 69, velocity := 127, waveform := waveform, phase := 0, inc := 0x3C800000, lfsr := lfsrSeed,
    env := { state := state, counter := counter } }

/-- TC with V0 sounding. -/
def playing (waveform : Waveform) (state : EnvState) (counter : Word) : State :=
  start.withVoices [soundingVoice waveform state counter, idleVoice, idleVoice, idleVoice]

/-- TC with every voice sounding. -/
def full : State := start.withVoices (List.replicate 4 (soundingVoice .square .sustain 5))

/-- TC with the reverb and the delay enabled and allocated. -/
def wet : State := delayAlloc (reverbAlloc start)

/-! ### WellFormed refuses -/

theorem test_reserved_field_a : wellFormed (.noteOn 1 127 69) = false := by decide
theorem test_reserved_field_b : wellFormed (.noteOff 0 1 69) = false := by decide
theorem test_reserved_field_c : wellFormed (.tick 0 0 1) = false := by decide
theorem test_reserved_enable_bits : wellFormed (.setLfoEnable 0 0 3) = false := by decide
theorem test_reserved_field_z : wellFormed (.setSampleRate 1 28160) = false := by decide
theorem test_nan_operand : wellFormed (.setLfoRate 0 0xFFC00001) = false := by decide
theorem test_well_formed : wellFormed (.noteOn 0 255 255) = true ∧ wellFormed (.setSampleRate 0 0x7FC00000) = true := by decide

/-! ### Every command's decoding, its words written out from 30_encoding.md R96 and R101 -/

theorem test_decode_voice_commands :
    decode [0x00112233] = .ok (.nop 0x11 0x22 0x33, []) ∧ decode [0x01112233] = .ok (.tick 0x11 0x22 0x33, []) ∧
    decode [0x02112233] = .ok (.noteOn 0x11 0x22 0x33, []) ∧ decode [0x03112233] = .ok (.noteOff 0x11 0x22 0x33, []) ∧
    decode [0x04112233] = .ok (.allOff 0x11 0x22 0x33, []) ∧
    decode [0x05112233] = .ok (.setMasterVolume 0x11 0x22 0x33, []) ∧
    decode [0x06112233] = .ok (.setWaveform 0x11 0x22 0x33, []) ∧
    decode [0x07112233] = .ok (.setVoiceCount 0x11 0x22 0x33, []) ∧
    decode [0x08112233, 0x44556677] = .ok (.setSampleRate 0x112233 0x44556677, []) := by decide

theorem test_decode_lfo_commands :
    decode [0x10112233] = .ok (.setLfoEnable 0x11 0x22 0x33, []) ∧
    decode [0x11112233] = .ok (.setLfoVibrato 0x11 0x22 0x33, []) ∧
    decode [0x12112233] = .ok (.setLfoTremolo 0x11 0x22 0x33, []) ∧
    decode [0x13112233, 0x44556677] = .ok (.setLfoRate 0x112233 0x44556677, []) ∧
    decode [0x14112233, 0x44556677] = .ok (.setLfoDepth 0x112233 0x44556677, []) := by decide

theorem test_decode_filter_commands :
    decode [0x20112233] = .ok (.setFilterEnable 0x11 0x22 0x33, []) ∧
    decode [0x21112233] = .ok (.setFilterType 0x11 0x22 0x33, []) ∧
    decode [0x22112233, 0x44556677] = .ok (.setFilterCutoff 0x112233 0x44556677, []) ∧
    decode [0x23112233, 0x44556677] = .ok (.setFilterResonance 0x112233 0x44556677, []) := by decide

theorem test_decode_eq_commands :
    decode [0x30112233] = .ok (.setEqEnable 0x11 0x22 0x33, []) ∧
    decode [0x31112233, 0x44556677] = .ok (.setEqBassGain 0x112233 0x44556677, []) ∧
    decode [0x32112233, 0x44556677] = .ok (.setEqMidGain 0x112233 0x44556677, []) ∧
    decode [0x33112233, 0x44556677] = .ok (.setEqTrebleGain 0x112233 0x44556677, []) := by decide

theorem test_decode_reverb_commands :
    decode [0x40112233] = .ok (.setReverbEnable 0x11 0x22 0x33, []) ∧
    decode [0x41112233, 0x44556677] = .ok (.setReverbRoomSize 0x112233 0x44556677, []) ∧
    decode [0x42112233, 0x44556677] = .ok (.setReverbDamping 0x112233 0x44556677, []) ∧
    decode [0x43112233, 0x44556677] = .ok (.setReverbWet 0x112233 0x44556677, []) := by decide

theorem test_decode_delay_commands :
    decode [0x50112233] = .ok (.setDelayEnable 0x11 0x22 0x33, []) ∧
    decode [0x51112233, 0x44556677] = .ok (.setDelayTime 0x112233 0x44556677, []) ∧
    decode [0x52112233, 0x44556677] = .ok (.setDelayFeedback 0x112233 0x44556677, []) ∧
    decode [0x53112233, 0x44556677] = .ok (.setDelayMix 0x112233 0x44556677, []) := by decide

theorem test_decode_system_commands :
    decode [0xF0112233] = .ok (.readReg 0x11 0x22 0x33, []) ∧ decode [0xF1112233] = .ok (.clearStatus 0x11 0x22 0x33, []) ∧
    decode [0xF2112233] = .ok (.shutdown 0x11 0x22 0x33, []) := by decide

theorem test_decode_undefined :
    decode [0x09000000] = .error (.undefinedOpcode 0x09) ∧ decode [0xFFFFFFFF] = .error (.undefinedOpcode 0xFF) := by decide

theorem test_decode_data_pending : decode [0x13000000] = .error (.dataPending 0x13000000) := by decide

/-- A row of the opcode table numbered as the table numbers it: word 0 in bits 31:0. -/
theorem test_decodeTableWord :
    decodeTableWord 32 0x02007F45 = some (.noteOn 0 127 69) ∧
    decodeTableWord 64 0x00006E0008000000 = some (.setSampleRate 0 28160) := by decide

/-- withFetchWord: the next step runs the command of the row. -/
theorem test_withFetchWord :
    seen (step (start.withFetchWord 32 0x07000002)) (fun t => t.settings.voiceCount) = some 2 ∧
    seen (step (start.withFetchWord 64 0x40A0000014000000)) (fun t => t.settings.lfoDepth) = some 0x40A00000 := by
  decide +kernel

/-! ### The assembler, on words of 30_encoding.md R107 -/

theorem test_assemble_noteOn : assembleWords "NOTE_ON 69, 127" = some [0x02007F45] := by decide +kernel
theorem test_assemble_float : assembleWords "SET_FILTER_RESONANCE 0.99" = some [0x23000000, 0x3F7D70A4] := by decide +kernel
theorem test_assemble_negative : assembleWords "SET_EQ_BASS_GAIN -12.0 ; full cut" = some [0x31000000, 0xC1400000] := by
  decide +kernel
theorem test_assemble_register : assembleWords "READ_REG STATUS" = some [0xF0000001] := by decide +kernel
theorem test_assemble_pseudo : assembleWords "NOTE 69, 127, 2" = some [0x02007F45, 0x01000000, 0x01000000, 0x03000045] := by
  decide +kernel

/-! ### One step of each command (95_test_vectors.md, the section named) -/

/-- 2.8: CLEAR_STATUS works while halted; NOP with a reserved field nonzero records code 2 there. -/
theorem test_nop_halted : seen (exec (.nop 1 0 0) stopped) (fun t => statusWord t.status t.halted) = some 0x00010202 := by
  decide +kernel
theorem test_clearStatus_halted :
    seen (exec (.clearStatus 0 0 0) (stopped.record .halted)) (fun t => statusWord t.status t.halted)
      = some 0x00010000 := by decide +kernel

/-- 2.8: a TICK with c = 1 emits no frame. -/
theorem test_tick_reserved :
    seen (exec (.tick 0 0 1) start) (fun t => (statusWord t.status t.halted, t.sampleCount, t.frames))
      = some (0x00000202, 0, []) := by decide +kernel

/-- 2.3: the second SQUARE frame of a note in TC. -/
theorem test_tick_square :
    seen (exec (.tick 0 0 0) (playing .square .attack 1)) (fun t => (t.sampleCount, t.frames))
      = some (1, [.stereo 16383 16383]) := by decide +kernel

/-- 2.3: note and velocity above 127 are clamped; VOICE_0 reads 0x0001FF7F. -/
theorem test_noteOn_clamped :
    seen (exec (.noteOn 0 200 200) start) (fun t => t.voices.map voiceWord) = some [0x0001FF7F, 0, 0, 0] := by decide +kernel

/-- P1: the increment of note 69 at 28160 Hz; with every voice sounding, V0 is taken. -/
theorem test_noteOn_stolen :
    seen (exec (.noteOn 0 127 69) full) (fun t => t.voices.map fun v => (v.env.counter, v.inc))
      = some [(0, 0x3C800000), (5, 0x3C800000), (5, 0x3C800000), (5, 0x3C800000)] := by decide +kernel

/-- 42_voice.md R168: every sounding voice of the note is released. -/
theorem test_noteOff : seen (exec (.noteOff 0 0 69) full) (fun t => t.voices.map fun v => (v.env.state, v.env.counter))
    = some [(.release, 0), (.release, 0), (.release, 0), (.release, 0)] := by decide +kernel
theorem test_noteOff_other : seen (exec (.noteOff 0 0 70) full) (fun t => t.voices == full.voices) = some true := by
  decide +kernel

theorem test_allOff : seen (exec (.allOff 0 0 0) full) (fun t => t.voices.map fun v => (v.active, v.env.state))
    = some [(false, .off), (false, .off), (false, .off), (false, .off)] := by decide +kernel

/-- 46_mixer.md R258. -/
theorem test_setMasterVolume : seen (exec (.setMasterVolume 0 0 128) start) (fun t => t.settings.masterVolume) = some 128 := by
  decide +kernel

/-- 2.8: a waveform code above 4 is clamped, not an error. -/
theorem test_setWaveform : seen (exec (.setWaveform 0 0 9) start) (fun t => (t.settings.waveform, t.status.lastCode))
    = some (.noise, 0) := by decide +kernel

/-- 2.8: a voice count of 0 gives 1, one of 200 gives 4. -/
theorem test_setVoiceCount_low : seen (exec (.setVoiceCount 0 0 0) full)
    (fun t => (t.settings.voiceCount, t.voices.map Voice.active)) = some (1, [true, false, false, false]) := by
  decide +kernel
theorem test_setVoiceCount_high : seen (exec (.setVoiceCount 0 0 0xC8) start) (fun t => t.settings.voiceCount) = some 4 := by
  decide +kernel

/-- 2.8: the data word is a u32, clamped, with no NaN check; a reserved z records code 2. -/
theorem test_setSampleRate_high : seen (exec (.setSampleRate 0 0x7FC00000) start)
    (fun t => (t.settings.sampleRate, t.derived.delayN, t.derived.delayD, t.status.lastCode)) = some (48000, 48000, 12000, 0) := by
  decide +kernel
theorem test_setSampleRate_reserved : seen (exec (.setSampleRate 1 0x00001F40) start)
    (fun t => (t.settings.sampleRate, t.status.lastCode)) = some (28160, 2) := by decide +kernel

/-- 2.8: c[0] alone is the enable bit; c[1] is reserved. -/
theorem test_setLfoEnable : seen (exec (.setLfoEnable 0 0 1) start) (fun t => enablesWord t.settings) = some 1 := by
  decide +kernel
theorem test_setLfoEnable_reserved : seen (exec (.setLfoEnable 0 0 3) start)
    (fun t => (statusWord t.status t.halted, enablesWord t.settings)) = some (0x00000202, 0) := by decide +kernel
theorem test_setLfoVibrato : seen (exec (.setLfoVibrato 0 0 1) start) (fun t => enablesWord t.settings) = some 2 := by
  decide +kernel
theorem test_setLfoTremolo : seen (exec (.setLfoTremolo 0 0 1) start) (fun t => enablesWord t.settings) = some 4 := by
  decide +kernel

/-- 2.4: SET_LFO_RATE of -infinity stores 0.1; a NaN records code 3 and changes nothing. -/
theorem test_setLfoRate : seen (exec (.setLfoRate 0 0xFF800000) start) (fun t => (t.settings.lfoRate, t.derived.lfoInc))
    = some (0x3DCCCCCD, 0x366E500F) := by decide +kernel
theorem test_setLfoRate_nan : seen (exec (.setLfoRate 0 0xFFC00001) start)
    (fun t => (statusWord t.status t.halted, t.settings.lfoRate)) = some (0x00000304, 0x40A00000) := by decide +kernel

/-- 43_lfo.md R190: the depth is held to [0, 100]. -/
theorem test_setLfoDepth : seen (exec (.setLfoDepth 0 0x7F800000) start) (fun t => t.settings.lfoDepth) = some 0x42C80000 := by
  decide +kernel

theorem test_setFilterEnable : seen (exec (.setFilterEnable 0 0 1) (start.withSvf { low := 1, band := 2 }))
    (fun t => (enablesWord t.settings, t.svf)) = some (8, { low := 0, band := 0 }) := by decide +kernel

/-- 2.5: type 7 is clamped to BANDPASS. -/
-- 44_filter_eq.md R198, second example (f = q = 1, input 1): the first sample through the three types. HIGHPASS and
-- BANDPASS follow the current input, LOWPASS does not.
theorem test_svfRun_first_sample :
    [FilterType.lowpass, .highpass, .bandpass].map
      (fun k => svfRun k 0x3F800000 0x3F800000 0x3F800000 { low := 0, band := 0 })
    = [(0, { low := 0, band := 0x3F800000 }), (0x3F800000, { low := 0, band := 0x3F800000 }),
       (0x3F800000, { low := 0, band := 0x3F800000 })] := by decide +kernel

-- The same example's second sample: low 1, high -1, band 0. The first input has reached LOWPASS.
theorem test_svfRun_second_sample :
    [FilterType.lowpass, .highpass, .bandpass].map
      (fun k => (svfRun k 0x3F800000 0x3F800000 0x3F800000 { low := 0, band := 0x3F800000 }).1)
    = [0x3F800000, 0xBF800000, 0] := by decide +kernel

theorem test_setFilterType : seen (exec (.setFilterType 0 0 7) start) (fun t => t.settings.filterType) = some .bandpass := by
  decide +kernel
theorem test_setFilterCutoff : seen (exec (.setFilterCutoff 0 0x463B8000) start) (fun t => t.settings.filterCutoff)
    = some 0x463B8000 := by decide +kernel

/-- 2.5: resonance 1.0 is stored as 0.99 and FILTER_Q becomes 0.01. -/
theorem test_setFilterResonance : seen (exec (.setFilterResonance 0 0x3F800000) start)
    (fun t => (t.settings.filterResonance, t.derived.filterQ)) = some (0x3F7D70A4, 0x3C23D70A) := by decide +kernel

theorem test_setEqEnable : seen (exec (.setEqEnable 0 0 1) start) (fun t => (enablesWord t.settings, t.eq[0]))
    = some (16, silentBand) := by decide +kernel

/-- 2.5: a gain of -0 is stored as it is and has the identity coefficients. -/
theorem test_setEqBassGain : seen (exec (.setEqBassGain 0 0x80000000) start)
    (fun t => (t.settings.eqBassGain, t.derived.eqCoef[0])) = some (0x80000000, identityCoef) := by decide +kernel
theorem test_setEqMidGain : seen (exec (.setEqMidGain 0 0x80000000) start)
    (fun t => (t.settings.eqMidGain, t.derived.eqCoef[1])) = some (0x80000000, identityCoef) := by decide +kernel
theorem test_setEqTrebleGain : seen (exec (.setEqTrebleGain 0 0xFF800000) start) (fun t => t.settings.eqTrebleGain)
    = some 0xC1400000 := by decide +kernel

/-- 2.7: the reverb takes 5934 words, the delay SAMPLE_RATE words. -/
theorem test_setReverbEnable : seen (exec (.setReverbEnable 0 0 1) start)
    (fun t => (enablesWord t.settings, t.pool.free, reverbSize t.pool.rev)) = some (0x20, 59602, 5934) := by decide +kernel
theorem test_setDelayEnable : seen (exec (.setDelayEnable 0 0 1) start)
    (fun t => (enablesWord t.settings, t.pool.free, t.pool.dly.size, t.derived.delayD)) = some (0x40, 37376, 28160, 7040) := by
  decide +kernel

/-- 2.7: with 30000 words the reverb fits and the delay does not: code 6. -/
theorem test_setDelayEnable_full :
    seen (exec (.setDelayEnable 0 0 1) (reverbAlloc (State.resetOf { testConfig with memWords := 30000 })))
      (fun t => (statusWord t.status t.halted, enablesWord t.settings, t.pool.free)) = some (0x00000620, 0x20, 24066) := by
  decide +kernel

/-- 45_reverb_delay.md R220: REVERB_FB at room size 1 (2.8 gives 0x3F39999A at 0.5). -/
theorem test_setReverbRoomSize : seen (exec (.setReverbRoomSize 0 0x3F000000) start) (fun t => t.derived.reverbFb)
    = some 0x3F39999A := by decide +kernel
theorem test_setReverbDamping : seen (exec (.setReverbDamping 0 0x40000000) start) (fun t => t.settings.reverbDamping)
    = some 0x3F800000 := by decide +kernel
theorem test_setReverbWet : seen (exec (.setReverbWet 0 0xBF800000) start) (fun t => t.settings.reverbWet) = some 0 := by
  decide +kernel

/-- 45_reverb_delay.md R233 with TC's 28160 Hz: 10 ms is 281 samples. -/
theorem test_setDelayTime : seen (exec (.setDelayTime 0 0) start) (fun t => (t.settings.delayTime, t.derived.delayD))
    = some (0x41200000, 281) := by decide +kernel
theorem test_setDelayFeedback : seen (exec (.setDelayFeedback 0 0x42C80000) start) (fun t => t.settings.delayFeedback)
    = some 0x42B40000 := by decide +kernel
theorem test_setDelayMix : seen (exec (.setDelayMix 0 0x42C80000) start) (fun t => t.settings.delayMix) = some 0x42C80000 := by
  decide +kernel

/-- 2.8: registers in TC after reset; an unassigned one answers 0 and records code 4. -/
theorem test_readReg : seen (exec (.readReg 0 0 0x02) start) (fun t => t.responses) = some [0x00000004] := by decide +kernel
theorem test_readReg_unassigned : seen (exec (.readReg 0 0 0x84) start)
    (fun t => (t.responses, statusWord t.status t.halted)) = some ([0], 0x00000408) := by decide +kernel

/-- 47_system.md R272. -/
theorem test_shutdown : seen (exec (.shutdown 0 0 0) wet)
    (fun t => (t.halted, enablesWord t.settings, t.pool.free)) = some (true, 0, 0x00010000) := by decide +kernel

/-- 2.8: while halted, code 7 comes before the reserved-field check. -/
theorem test_halted_first : seen (exec (.setLfoRate 1 0) stopped) (fun t => statusWord t.status t.halted)
    = some 0x00010740 := by decide +kernel

/-! ### Operations (95_test_vectors.md 2.1, 2.2, P4; 20_memory.md R75) -/

/-- 2.1: the ATTACK and DECAY values of the full cycle, REAL: 63.75 and 223.25. -/
theorem test_envelope_real :
    (envGet testConfig { state := .attack, counter := 0 }).1 = 0x427F0000 ∧
    (envGet testConfig { state := .decay, counter := 0 }).1 = 0x435F4000 := by decide +kernel

/-- 2.1: the same, INTEGER: 63 and 224. -/
theorem test_envelope_integer :
    (envGet { testConfig with envArith := .integer } { state := .attack, counter := 0 }).1 = fOfNat 63 ∧
    (envGet { testConfig with envArith := .integer } { state := .decay, counter := 0 }).1 = fOfNat 224 := by decide +kernel

/-- 2.2: the fourth LOW16 and HIGH16 value of the Galois form. -/
theorem test_noise :
    (reduce16 testConfig (galoisStep 0xE070159A)).toInt = 2765 ∧
    (reduce16 { testConfig with noiseReduce := .high16 } (galoisStep 0xE070159A)).toInt = 28728 := by decide +kernel

/-- Rounding at a tie goes to even, up and down, and subnormals stay: 2^24 + 1, 2^24 + 3, 2^-149 × 1/2 × 3. -/
theorem test_rounding :
    fAdd 0x4B800000 0x3F800000 = 0x4B800000 ∧ fAdd 0x4B800000 0x40400000 = 0x4B800002 ∧
    fMul 0x00000003 0x3F000000 = 0x00000002 := by decide +kernel

/-- Log entry 24: at A = 65795, where 255 A > 2^24, the value of R129 at c = A is below 255. -/
theorem test_attack_peak : fLt (attackReal { testConfig with attackSamples := 65795 } 65795) (fOfNat 255) = true := by
  decide +kernel

/-! ### Witnesses: a state and operands that meet a statement's hypotheses, at the ends of its ranges -/

/-- TC with one word to take. -/
def arriving (agent : Agent) (w : Word) (pending : Pending) : State :=
  (start.withPort [.word agent w]).withPending pending

/-- A pending first word of the host. -/
def hostPending (w : Word) : Pending := { host := some w, clock := none }

/-- The largest instance. -/
def bigConfig : Config :=
  { testConfig with maxVoices := 32, srMin := 1, srMax := 2 ^ 24, attackSamples := 2 ^ 24, decaySamples := 2 ^ 24,
                    releaseSamples := 2 ^ 24, sustainLevel := 255, memWords := 2 ^ 32 - 1 }

/-- TC with SCALED reverb lengths at a reference rate of 28160 Hz. -/
def scaledConfig : Config := { testConfig with reverbLenMode := .scaled, reverbRefRate := 28160 }

/-- TC with some words of buffer memory. -/
def withWords (n : Nat) : State := State.resetOf { testConfig with memWords := n }

/-- A pool of two short reverb buffers' worth and a delay line of four words at the top of buffer memory. -/
def smallPool : Pool :=
  { mem := [(0, 0x3F800000)]
    free := 0
    rev := { allocated := true, base := 0, len := #v[2, 2, 2, 2, 2, 2], idx := #v[0, 1, 1, 1, 0, 1], fs := Vector.replicate 4 0 }
    dly := { allocated := true, base := 65532, size := 4, wp := 0 } }

/-- A finite F that is an integer. -/
theorem value_of_units {x : F32} {k : Int} (h : fUnits x = k * fOneUnits) : fValue x = k := by
  have h1 : (fOneUnits : ℚ) ≠ 0 := Nat.cast_ne_zero.mpr (Nat.two_pow_pos 149).ne'
  unfold fValue
  rw [h]
  push_cast
  field_simp

theorem witness_EncodeOfDecode : decode [0x08000000, 0x00006E00, 7] = .ok (.setSampleRate 0 28160, [7]) := by decide

theorem witness_FirstWordDecidesLength :
    (isInstance start.cfg = true ∧ (arriving .host 0x08FFFFFF noPending).port = [.word .host 0x08FFFFFF] ∧
      pendingOf (arriving .host 0x08FFFFFF noPending).pending .host = none ∧ beginsFormatP 0x08FFFFFF = true) ∧
    (pendingOf (arriving .sampleClock 0x01000000 (hostPending 0x53000000)).pending .sampleClock = none ∧
      beginsFormatP 0x01000000 = false ∧ opcodeUndefined 0x01000000 = false) ∧
    (beginsFormatP 0x09000000 = false ∧ opcodeUndefined 0x09000000 = true) ∧
    (pendingOf (arriving .host 0xFFFFFFFF (hostPending 0x53000000)).pending .host = some 0x53000000 ∧
      beginsFormatP 0x53000000 = true) := by decide +kernel

theorem witness_UndefinedOpcodes :
    opcodeUndefined 0x09000000 = true ∧ opcodeUndefined 0xEFFFFFFF = true ∧ isInstance start.cfg = true ∧
    (arriving .host 0xF3000000 noPending).port = [.word .host 0xF3000000] ∧
    pendingOf (arriving .host 0xF3000000 noPending).pending .host = none ∧ opcodeUndefined 0xF3000000 = true := by
  decide +kernel

theorem witness_WordsAndFramesOnAMedium :
    testConfig.backend = .digitalStereo ∧ { testConfig with backend := .analogMono }.backend = .analogMono := by decide

theorem witness_StepRunsDecodedCommand :
    isInstance start.cfg = true ∧ (arriving .host 28160 (hostPending 0x08000000)).port = [.word .host 28160] ∧
    decode ((pendingOf (arriving .host 28160 (hostPending 0x08000000)).pending .host).toList ++ [28160])
      = .ok (.setSampleRate 0 28160, []) ∧
    decode ((pendingOf (arriving .host 0xF2000000 noPending).pending .host).toList ++ [0xF2000000])
      = .ok (.shutdown 0 0 0, []) := by decide +kernel

theorem witness_StepWithoutCommand :
    isInstance { testConfig with maxVoices := 0 } = false ∧ isInstance { testConfig with maxVoices := 33 } = false ∧
    isInstance bigConfig = true ∧ isInstance start.cfg = true ∧ runEnded start = true ∧
    (start.withPort [.reset]).port = .reset :: [] := by decide +kernel

/-- A word of each agent is taken: no step of these two answers anything but a next state. -/
theorem witness_AgentOrderKept :
    (step (arriving .host 0x09000000 noPending)) = .next ((start.withPort []).record .illegalOpcode) ∧
    (step (arriving .sampleClock 0x00000000 noPending)) = .next (start.withPort []) := ⟨rfl, rfl⟩

theorem witness_ChecksInOrder :
    (stopped.halted = true ∧ runsWhileHalted (.tick 0 0 1) = false) ∧
    (start.halted = false ∧ reservedZero (.setEqMidGain 1 0) = false) ∧
    (runsWhileHalted (.nop 0 0 1) = true ∧ reservedZero (.nop 0 0 1) = false) ∧
    (reservedZero (.setDelayMix 0 0x7F800001) = true ∧ floatOperand (.setDelayMix 0 0x7F800001) = some 0x7F800001 ∧
      fIsNaN 0x7F800001 = true) := by decide +kernel

theorem witness_ReadRegisterMap :
    start.voices[0]? = some idleVoice ∧ 3 < start.cfg.maxVoices ∧ start.voices[3]? = some idleVoice ∧
    (State.resetOf bigConfig).voices[31]? = some idleVoice := by decide +kernel

theorem witness_UnassignedRegister :
    ∀ n ∈ ([0x13, 0x1F, 0x55, 0x7F, 0x84, 0xFF] : List (BitVec 8)),
      n ∉ ([0x00, 0x01, 0x02, 0x03, 0x04, 0x05, 0x06, 0x07, 0x08, 0x09, 0x0A, 0x0B, 0x0C, 0x0D, 0x0E, 0x0F, 0x10, 0x11,
        0x12, 0x20, 0x21, 0x22, 0x23, 0x24, 0x30, 0x31, 0x32, 0x40, 0x41, 0x42, 0x43, 0x44, 0x50, 0x51, 0x52, 0x53,
        0x54] : List (BitVec 8)) ∧ ¬ (0x80 ≤ n.toNat ∧ n.toNat < 0x80 + start.cfg.maxVoices) := by decide +kernel

theorem witness_RegisterLayouts : testConfig.maxVoices ≤ 32 ∧ bigConfig.maxVoices = 32 := by decide

theorem witness_RecordingACode : 0 < 7 ∧ 6 < 7 := by decide

/-- The least F, +infinity and -0 are operands of an F command that is not halted. -/
theorem witness_LfoSettingsEffect :
    start.halted = false ∧ fIsNaN 0x00000001 = false ∧ fIsNaN 0x7F800000 = false ∧ fIsNaN 0x80000000 = false := by
  decide +kernel

theorem witness_FilterSettingsEffect : full.halted = false ∧ fIsNaN 0x46FFFE00 = false ∧ fIsNaN 0xFF800000 = false := by
  decide +kernel

theorem witness_EffectSettings : wet.halted = false ∧ fIsNaN 0x3F800000 = false ∧ fIsNaN 0x80000000 = false := by
  decide +kernel

/-- A state with a voice that matches and sounds, one that is idle. -/
theorem witness_NoteOffAndAllOff :
    full.halted = false ∧ full.voices[3]? = some (soundingVoice .square .sustain 5) ∧
    (soundingVoice .square .sustain 5).note.toNat = min (69 : BitVec 8).toNat 127 ∧
    (soundingVoice .square .sustain 5).env.state ≠ .off ∧ start.halted = false := by decide +kernel

theorem witness_ShutdownEffect :
    wet.halted = false ∧ wet.settings.reverbEnable = true ∧ wet.settings.delayEnable = true ∧
    start.settings.reverbEnable = false := by decide +kernel

/-- The rate unchanged with both buffers held; a new rate with none; a new rate in each combination of buffers. -/
theorem witness_SampleRateEffect :
    (wet.halted = false ∧ clampSampleRate wet.cfg 28160 = wet.settings.sampleRate) ∧
    (start.cfg.reverbLenMode = .fixed ∧ start.pool.dly.allocated = false ∧
      clampSampleRate start.cfg 48000 ≠ start.settings.sampleRate) ∧
    (wet.cfg.reverbLenMode = .fixed ∧ wet.pool.dly.allocated = true ∧
      clampSampleRate wet.cfg 8000 ≠ wet.settings.sampleRate) ∧
    (let s := delayAlloc (reverbAlloc (State.resetOf scaledConfig))
     s.halted = false ∧ s.cfg.reverbLenMode = .scaled ∧ s.pool.rev.allocated = true ∧ s.pool.dly.allocated = true ∧
       clampSampleRate s.cfg 8000 ≠ s.settings.sampleRate) ∧
    (let s := reverbAlloc (State.resetOf scaledConfig)
     s.cfg.reverbLenMode = .scaled ∧ s.pool.rev.allocated = true ∧ s.pool.dly.allocated = false) := by decide +kernel

theorem witness_LfsrStep : 0 < 32 ∧ 22 < 32 ∧ 31 < 32 ∧ testConfig.lfsrForm = .galois ∧
    { testConfig with lfsrForm := .fibonacci }.lfsrForm = .fibonacci := by decide

theorem witness_SineRomShape : 1 ≤ 1 ∧ 255 ≤ 255 ∧ 511 < 512 := by decide

theorem witness_VoiceCountVolumeAndWaveform : start.halted = false ∧ isInstance start.cfg = true := by decide +kernel

/-- The first voice free, only the last one free, none free. -/
theorem witness_NoteOnEffect :
    (start.voices[0]? = some idleVoice ∧ idleVoice.active = false ∧ 0 < start.settings.voiceCount.toNat) ∧
    (let s := start.withVoices (List.replicate 3 (soundingVoice .sine .attack 0) ++ [idleVoice])
     3 < s.settings.voiceCount.toNat ∧ s.voices[3]? = some idleVoice ∧
       ∀ j, j < 3 → s.voices[j]? = some (soundingVoice .sine .attack 0)) ∧
    (full.voices[0]? = some (soundingVoice .square .sustain 5) ∧
      ∀ j, j < 4 → full.voices[j]? = some (soundingVoice .square .sustain 5)) ∧
    (soundingVoice .sine .attack 0).active = true ∧ (soundingVoice .square .sustain 5).active = true := by decide +kernel

theorem witness_NoteFrequencyAndIncrement :
    testConfig.phaseRepr = .float ∧ { testConfig with phaseRepr := .q16 }.phaseRepr = .q16 ∧
    (let x := fMul (fDiv (fMul (fOfNat 440) (pow2F (fDiv (fOfInt (((69 : BitVec 7).toNat : Int) - 69)) (fOfNat 12))))
      (fOfNat (28160 : Word).toNat)) (fOfNat 65536)
     0 ≤ fFloor x ∧ fFloor x < 2 ^ 32) := by decide +kernel

theorem witness_FilterAndEqEnableEffect : start.settings.filterEnable = false ∧ start.settings.eqEnable = false := by
  decide +kernel

theorem witness_EqGainsAndCoefficients :
    fMagnitude 0x80000000 = 0 ∧ fMagnitude 0x00000001 ≠ 0 ∧ fIsNaN 0x00000001 = false ∧ fMagnitude 0xC1400000 ≠ 0 := by
  decide

/-- A reverb that just fits, one a word too large, one to disable. -/
theorem witness_SetReverbEnableEffect :
    ((withWords 5934).halted = false ∧ (withWords 5934).settings.reverbEnable = false ∧
      (reverbLengths (withWords 5934).cfg (withWords 5934).settings.sampleRate).toList.sum = (withWords 5934).pool.free.toNat) ∧
    ((withWords 5933).pool.free.toNat + 1
      = (reverbLengths (withWords 5933).cfg (withWords 5933).settings.sampleRate).toList.sum) ∧
    wet.settings.reverbEnable = true := by decide +kernel

theorem witness_SetDelayEnableEffect :
    ((withWords 28160).halted = false ∧ (withWords 28160).settings.delayEnable = false ∧
      (withWords 28160).derived.delayN.toNat = (withWords 28160).pool.free.toNat) ∧
    (withWords 28159).pool.free.toNat + 1 = (withWords 28159).derived.delayN.toNat ∧
    wet.settings.delayEnable = true := by decide +kernel

theorem witness_BufferLengths :
    testConfig.reverbLenMode = .fixed ∧ scaledConfig.reverbLenMode = .scaled ∧ 1 ≤ (1 : Word).toNat ∧
    1 ≤ (48000 : Word).toNat := by decide

theorem witness_TickWithoutBuffersEffect :
    start.halted = false ∧ start.settings.reverbEnable = false ∧ start.settings.delayEnable = false ∧
    (start.voices.all fun v => !v.active) = true ∧ start.settings.filterEnable = false ∧
    start.settings.eqEnable = false := by decide +kernel

theorem witness_TickCompletes :
    wet.halted = false ∧ isInstance wet.cfg = true ∧ buffersOk wet = true ∧ wet.settings.reverbEnable = true ∧
    wet.settings.delayEnable = true ∧ buffersOk start = true ∧ start.settings.reverbEnable = false ∧
    start.settings.delayEnable = false := by decide +kernel

theorem witness_EnvelopeOperations :
    (soundingVoice .sine .sustain 5).env.state ≠ .off ∧ idleVoice.env.state = .off ∧
    testConfig.releaseSamples < ((4 : Word) + 1).toNat ∧ testConfig.envArith = .real ∧
    ((3 : Word) + 1).toNat ≤ testConfig.releaseSamples ∧ { testConfig with envArith := .integer }.envArith = .integer ∧
    testConfig.sustainLevel ≤ 255 ∧ 1 ≤ testConfig.decaySamples ∧ ((3 : Word) + 1).toNat ≤ testConfig.decaySamples ∧
    1 ≤ testConfig.releaseSamples := by decide

theorem witness_NoteLifetime :
    isInstance testConfig = true ∧ (soundingVoice .sine .attack 2).env.state ≠ .off ∧ 0 ≤ testConfig.releaseSamples + 1 ∧
    5 ≤ testConfig.releaseSamples + 1 := by decide +kernel

theorem witness_EnvelopeBoundaryValues :
    (let c := { testConfig with attackSamples := 65793 }
     isInstance c = true ∧ 255 * c.attackSamples ≤ 2 ^ 24) ∧
    (let c := { testConfig with decaySamples := 65793, sustainLevel := 0 }
     isInstance c = true ∧ (255 - c.sustainLevel) * c.decaySamples ≤ 2 ^ 24) ∧
    (let c := { testConfig with releaseSamples := 65793, sustainLevel := 255 }
     isInstance c = true ∧ c.sustainLevel * c.releaseSamples ≤ 2 ^ 24) := by decide +kernel

theorem witness_EnvelopeInRange :
    isInstance testConfig = true ∧ envInPhase testConfig { state := .off, counter := 0 } = true ∧
    envInPhase testConfig { state := .attack, counter := 3 } = true ∧
    envInPhase testConfig { state := .decay, counter := 3 } = true ∧
    envInPhase testConfig { state := .sustain, counter := 0xFFFFFFFF } = true ∧
    envInPhase testConfig { state := .release, counter := 4 } = true ∧ testConfig.envArith = .real ∧
    (255 - testConfig.sustainLevel) * testConfig.decaySamples ≤ 2 ^ 24 ∧
    testConfig.sustainLevel * testConfig.releaseSamples ≤ 2 ^ 24 := by decide +kernel

theorem witness_VoiceSampleEffect :
    idleVoice.active = false ∧ (soundingVoice .noise .release 4).active = true ∧
    (envGet testConfig (soundingVoice .noise .release 4).env).2.state = .off ∧
    (envGet testConfig (soundingVoice .noise .release 3).env).2.state ≠ .off ∧
    { testConfig with sineMode := .direct }.sineMode = .direct ∧ testConfig.sineMode = .table ∧ fInUnit 0 = true ∧
    fInUnit 0x3F7FFFFF = true := by decide +kernel

/-- The ends of both representations, no vibrato and some, a floor of 0 and the largest floor that is a u32, and a sum just
below 1, at 1 and of many cycles. -/
theorem witness_PhaseStaysInCycle :
    ({ testConfig with phaseRepr := .q16 }.phaseRepr = .q16 ∧ testConfig.phaseRepr = .float ∧ fInUnit 0 = true ∧
      fInUnit 0x3F7FFFFF = true ∧ fLe (fOfNat 0) 0 = true ∧ fLt 0x4AFFFFFF (fOfNat (2 ^ 23)) = true ∧
      fLe (fOfNat 0) 0x4AFFFFFF = true ∧ (65535 : Word).toNat < 65536) ∧
    (fNe 0x80000000 (fOfNat 0) = false ∧ fNe 0x00000001 (fOfNat 0) = true ∧ fNe 0x3CA3D70A (fOfNat 0) = true) ∧
    (fMul (fOfNat (0 : Word).toNat) (fAdd (fOfNat 1) 0x3CA3D70A) = 0 ∧ fIsFinite 0 = true ∧ ⌊fValue 0⌋ = 0) ∧
    (fMul (fOfNat (0xFFFFFF00 : Word).toNat) (fAdd (fOfNat 1) 1) = 0x4F7FFFFF ∧ fIsFinite 0x4F7FFFFF = true ∧
      ⌊fValue 0x4F7FFFFF⌋ = 4294967040 ∧ (4294967040 : Int) < 2 ^ 32) ∧
    (fLe (fOfNat 1) (fAdd 0x3F7FFFFF 0) = false ∧ fLe (fOfNat 1) (fAdd 0x3F000000 0x3F000000) = true ∧
      fIsFinite (fAdd 0x3F000000 0x3F000000) = true ∧ fLe (fOfNat 1) (fAdd 0 0x4AFFFFFF) = true) :=
  ⟨by decide +kernel, by decide +kernel,
    ⟨by decide +kernel, by decide, by rw [value_of_units (k := 0) (by decide +kernel), Int.floor_intCast]⟩,
    ⟨by decide +kernel, by decide, by rw [value_of_units (k := 4294967040) (by decide +kernel), Int.floor_intCast],
      by decide⟩, by decide +kernel⟩

theorem witness_SampleRange :
    { testConfig with sineMode := .direct }.sineMode = .direct ∧ fInUnit 0 = true ∧ fInUnit 0x3F7FFFFF = true ∧ fIsFinite 0x7F7FFFFF = true ∧
    fInRange (fOfNat 0) (fOfNat 0) (fOfNat 255) = true ∧ fInRange (fOfNat 0) (fOfNat 255) (fOfNat 255) = true ∧
    fInRange (fOfNat 0) (fOfNat 0) (fOfNat 1) = true ∧ fInRange (fOfNat 0) (fOfNat 1) (fOfNat 1) = true := by decide +kernel

theorem witness_UnityFactors : fIsFinite 0x80000000 = true ∧ fIsFinite 0x7F7FFFFF = true ∧ 1 ≤ 32 := by decide

theorem witness_LfoRanges :
    start.settings.lfoEnable = false ∧ (start.withSettings { start.settings with lfoEnable := true }).settings.lfoEnable = true ∧
    fInRange (fOfNat 0) 0x80000000 (fOfNat 100) = true ∧ fInRange (fOfNat 0) (fOfNat 100) (fOfNat 100) = true ∧
    testConfig.lfoCallsPerSample = .one ∧ { testConfig with lfoCallsPerSample := .two }.lfoCallsPerSample = .two := by
  decide +kernel

theorem witness_NeutralEffects :
    fPlain 0 = true ∧ fPlain 0xFF7FFFFF = true ∧ fPlain 0x3F800000 = true ∧ fIsFinite 0xFF7FFFFF = true ∧
    (∀ h ∈ (Vector.replicate 3 silentBand).toList,
      fIsFinite h.x1 = true ∧ fIsFinite h.x2 = true ∧ fIsFinite h.y1 = true ∧ fIsFinite h.y2 = true) := by decide +kernel

/-- A delay of no, one and all samples of the line, its position at the first word and at the last. -/
theorem witness_DelayEchoesExactly :
    (let x := { start.settings with delayFeedback := fOfNat 0, delayMix := fOfNat 100 }
     x.delayFeedback = fOfNat 0 ∧ x.delayMix = fOfNat 100) ∧
    1 ≤ (1 : Word).toNat ∧ (4 : Word).toNat ≤ smallPool.dly.size.toNat ∧ smallPool.dly.wp = 0 ∧
    smallPool.dly.base.toNat + smallPool.dly.size.toNat ≤ testConfig.memWords ∧ Memory.wf smallPool.mem = true ∧
    (∀ i, i < smallPool.dly.size.toNat → readCell smallPool.mem (smallPool.dly.base.toNat + i) = 0) ∧
    (∀ y ∈ ([0x3F800000, 0, 0xC0000000] : List F32), fPlain y = true) ∧
    ((0 : Word).toNat ≤ smallPool.dly.size.toNat ∧ smallPool.dly.wp.toNat < smallPool.dly.size.toNat ∧
      { smallPool.dly with wp := 3 }.wp.toNat < { smallPool.dly with wp := 3 }.size.toNat) :=
  ⟨⟨rfl, rfl⟩, by decide, by decide, rfl, by decide, by decide,
    fun i _ => by simp [smallPool, readCell],
    List.forall_iff_forall_mem.mp (by decide +kernel : [0x3F800000, 0, 0xC0000000].Forall fun y : F32 => fPlain y = true),
    by decide⟩

/-- A comb and an allpass at the first and the last word of their buffers. -/
theorem witness_CombAndAllpassEffect :
    (∀ j : Fin 6, smallPool.rev.idx[j].toNat < smallPool.rev.len[j].toNat ∧
      bufferBase smallPool.rev j + smallPool.rev.idx[j].toNat < testConfig.memWords) ∧ Memory.wf smallPool.mem = true := by
  decide +kernel

theorem witness_ArithmeticRoundsToNearestEven :
    (fIsFinite 0x7F7FFFFF = true ∧ fIsFinite 0x80000001 = true ∧ fMagnitude 0x80000001 ≠ 0 ∧ (3 : Nat) ≠ 0) ∧
    fValue 0x80000000 + fValue 0x80000000 = 0 ∧ fValue 0x80000000 - fValue 0 = 0 ∧
    fValue 0x3F800000 + fValue 0xBF800000 = 0 := by
  refine ⟨by decide +kernel, ?_⟩
  rw [value_of_units (x := 0x80000000) (k := 0) (by decide +kernel), value_of_units (x := 0) (k := 0) (by decide +kernel),
    value_of_units (x := 0x3F800000) (k := 1) (by decide +kernel),
    value_of_units (x := 0xBF800000) (k := -1) (by decide +kernel)]
  norm_num

theorem witness_NanAndComparisons :
    fIsNaN 0x7F800001 = true ∧ fIsNaN 0xFFFFFFFF = true ∧ fIsFinite 0x7F7FFFFF = true ∧ fIsFinite 0x80000000 = true ∧
    fIsNaN 0x7F800000 = false ∧ fIsNaN 0xFF800000 = false ∧ fIsNaN 0x00000001 = false ∧ fMagnitude 0x00000001 ≠ 0 ∧
    fMagnitude 0x7F800000 ≠ 0 ∧ fMagnitude 0x80000000 = 0 ∧ fIsFinite 0xFF800000 = false ∧
    (0x7F800000 : F32) ≠ 0xFF800000 := by decide +kernel

/-- 2^127 at 127, 1 at 0, 10^10 at 10, 1 at 0. -/
theorem witness_TranscendentalProperties :
    fIsFinite 0x42FE0000 = true ∧ fValue 0x42FE0000 = (127 : Int) ∧ fIsFinite 0x7F000000 = true ∧
    fValue 0x7F000000 = ((2 ^ 127 : Int) : ℚ) ∧ fValue 0x3F800000 = (1 : Int) ∧ fValue 0 = (0 : Int) ∧
    fValue 0x41200000 = (10 : Int) ∧ fValue 0x501502F9 = ((10 ^ 10 : Int) : ℚ) :=
  ⟨by decide, value_of_units (by decide +kernel), by decide, value_of_units (by decide +kernel),
    value_of_units (by decide +kernel), value_of_units (by decide +kernel), value_of_units (by decide +kernel),
    value_of_units (by decide +kernel)⟩

/-- The ends of the range, the values just inside it, and a value of each sign. -/
theorem witness_ToInt16AndClamp :
    fIsNaN 0x7FC00000 = true ∧ fLe (fOfInt 32767) 0x46FFFE00 = true ∧ fLe 0xC7000000 (fOfInt (-32768)) = true ∧
    (fLt (fOfInt (-32768)) 0x46FFFDFF = true ∧ fLt 0x46FFFDFF (fOfInt 32767) = true) ∧
    (fLt (fOfInt (-32768)) 0xC6FFFFFF = true ∧ fLt 0xC6FFFFFF (fOfInt 32767) = true) ∧
    fLt 0 0x3F800000 = true ∧ (fLt 0x40000000 0 = false ∧ fLt 0x3F800000 0x40000000 = true) ∧
    (fLt 0x3F800000 0 = false ∧ fLt 0x3F800000 0x3F800000 = false) := by decide +kernel

theorem witness_BufferMemory :
    (0 < 4 ∧ 0 + 0 < testConfig.memWords) ∧ (3 < 4 ∧ 65532 + 3 < testConfig.memWords) ∧ 4 ≤ 4 ∧
    testConfig.memWords ≤ 65533 + 3 ∧ Memory.wf [(0, 1), (65535, 2)] = true := by decide +kernel

theorem witness_ResetAllocations :
    isInstance testConfig = true ∧ isInstance bigConfig = true ∧
    (let cfg := { testConfig with init := { testConfig.init with reverbEnable := 1, delayEnable := 2 } }
     isInstance cfg = true ∧ (State.resetOf cfg).pool.rev.allocated = true ∧
       (State.resetOf cfg).pool.dly.allocated = true) := by
  decide +kernel

theorem witness_ResetValues :
    isInstance testConfig = true ∧ testConfig.init.reverbEnable = 0 ∧ testConfig.init.delayEnable = 0 ∧ 0 < 7 ∧ 6 < 7 := by
  decide +kernel

/-- The invariant holds of TC right after reset. -/
theorem witness_Inv_start : Inv start where
  inst := by decide +kernel
  consistent := by decide +kernel
  bank := by decide +kernel
  envelopes := by decide +kernel
  phases := by decide +kernel
  settings := by decide +kernel
  derived := rfl
  buffers := by decide +kernel
  status := by decide +kernel
  halted := by decide +kernel
  pending := by decide +kernel

/-- The invariant holds of TC with the reverb and the delay allocated and a TICK to take. -/
theorem witness_Inv_wet : Inv (wet.withPort [.word .sampleClock 0x01000000]) where
  inst := by decide +kernel
  consistent := by decide +kernel
  bank := by decide +kernel
  envelopes := by decide +kernel
  phases := by decide +kernel
  settings := by decide +kernel
  derived := rfl
  buffers := by decide +kernel
  status := by decide +kernel
  halted := by decide +kernel
  pending := by decide +kernel

/-- A step that answers a next state from a state with the invariant and its phase in [0, 1). -/
theorem witness_StepKeepsInvariant :
    Inv start ∧ fInUnit start.lfoPhase = true ∧ voicesConsistent start = true ∧ step start = .next start ∧
    (∀ rest, start.port ≠ .reset :: rest) :=
  ⟨witness_Inv_start, by decide +kernel, by decide +kernel, rfl, by intro rest h; cases h⟩

/-- Commands that answer a next state. -/
theorem witness_OnlyTickAdvances :
    exec (.nop 0 0 0) start = .next start ∧ exec (.tick 0 0 1) start = .next (start.record .reservedField) ∧
    (seen (exec (.tick 0 0 0) wet) fun t => t.frames.length) = some 1 := ⟨rfl, rfl, by decide +kernel⟩

/-- A TICK of a block with both buffers answers a next state, and its LFO phase and voices are as the statements ask. -/
theorem witness_LfoPhaseStaysInUnit :
    Inv (wet.withPort [.word .sampleClock 0x01000000]) ∧ fInUnit wet.lfoPhase = true ∧
    (seen (step (wet.withPort [.word .sampleClock 0x01000000])) fun t => t.frames.length) = some 1 :=
  ⟨witness_Inv_wet, by decide +kernel, by decide +kernel⟩

theorem witness_ActiveExactlyWhenNotOff : voicesConsistent full = true ∧ voicesConsistent wet = true ∧
    (seen (step (full.withPort [.word .sampleClock 0x01000000])) fun t => t.frames.length) = some 1 := by decide +kernel

theorem witness_StepNeverStops : Inv start ∧ Inv (wet.withPort [.word .sampleClock 0x01000000]) :=
  ⟨witness_Inv_start, witness_Inv_wet⟩

theorem witness_ResetHasInvariant : isInstance testConfig = true ∧ isInstance bigConfig = true := by decide +kernel

/-- A halted block with a sticky bit set, at rest. -/
theorem witness_HaltedAndStickyBitsStay :
    (stopped.record .halted).halted = true ∧ (stopped.record .halted).status.sticky.getLsbD 6 = true ∧
    step (stopped.record .halted) = .next (stopped.record .halted) ∧
    (∀ rest, (stopped.record .halted).port ≠ .reset :: rest) :=
  ⟨rfl, by decide +kernel, rfl, by intro rest h; cases h⟩

end Sys2Proof.Tests
end

-- Proofs of the family 00_scope.md: a step that runs no command.
section
/-! The step function away from the commands (00_scope.md R7, R9; 70_reset_and_hazards.md R305): the refusal of a parameter set
that violates R8, the end of a run, and a reset. -/

namespace Sys2Proof.Machine

open Sys2Proof

/-- TICK's own rule answers a next state or a fault, never a refusal. -/
theorem tickRule_ne_refused (s : State) (r : Refusal) : tickRule s ≠ .refused r := by
  unfold tickRule
  dsimp only
  split <;> simp

/-- The checks refuse nothing that the rule behind them does not refuse. -/
theorem checked_ne_refused {exempt reserved nan : Bool} {body : State → Result} {s : State} {r : Refusal}
    (h : body s ≠ .refused r) : checked exempt reserved nan body s ≠ .refused r := by
  unfold checked reject
  split_ifs <;> simp [h]

/-- No command is refused (R9 refuses parameter sets, not commands). -/
theorem exec_ne_refused (i : Instr) (s : State) (r : Refusal) : exec i s ≠ .refused r := by
  by_cases hi : isTick i
  · obtain ⟨a, b, c, rfl⟩ : ∃ a b c, i = .tick a b c := by
      match i, hi with
      | .tick a b c, _ => exact ⟨a, b, c, rfl⟩
    exact checked_ne_refused (tickRule_ne_refused s r)
  · obtain ⟨t, ht⟩ := exec_total (s := s) hi
    simp [ht]

/-- A parameter set that violates R8 is refused. -/
theorem step_of_not_instance {s : State} (h : isInstance s.cfg = false) : step s = .refused .notAnInstance := by
  simp [step, h]

/-- With a parameter set that meets R8 a step is no refusal, whatever arrives. -/
theorem step_ne_refused_of_instance {s : State} (h : isInstance s.cfg = true) (r : Refusal) : step s ≠ .refused r := by
  unfold step
  rw [if_pos h]
  split
  · simp
  · simp
  · split
    · simp
    · exact exec_ne_refused _ _ r
    · simp [undefinedCommand, reject]

/-- A run has ended exactly when nothing is left to arrive. -/
theorem runEnded_iff (s : State) : runEnded s = true ↔ s.port = [] := List.isEmpty_iff

/-- With nothing left to arrive a step changes nothing. -/
theorem step_of_empty_port {s : State} (h : isInstance s.cfg = true) (hp : s.port = []) : step s = .next s := by
  simp [step, h, hp]

/-- A reset puts the block at its reset value and leaves the later arrivals. -/
theorem step_of_reset {s : State} {rest : List Arrival} (h : isInstance s.cfg = true) (hp : s.port = .reset :: rest) :
    step s = .next { State.resetOf s.cfg with port := rest } := by
  simp [step, h, hp, resetArrival, State.withPort]

/-- The constraints of R8, one by one. -/
theorem isInstance_iff (cfg : Config) :
    isInstance cfg = true ↔
      (1 ≤ cfg.maxVoices ∧ cfg.maxVoices ≤ 32) ∧ (1 ≤ cfg.srMin ∧ cfg.srMin ≤ cfg.srMax ∧ cfg.srMax ≤ 2 ^ 24) ∧
      (∀ n ∈ [cfg.attackSamples, cfg.decaySamples, cfg.releaseSamples], 1 ≤ n ∧ n ≤ 2 ^ 24) ∧
      cfg.sustainLevel ≤ 255 ∧ 1 ≤ cfg.reverbRefRate ∧ cfg.memWords < 2 ^ 32 ∧
      ∀ x ∈ [cfg.init.lfoRate, cfg.init.lfoDepth, cfg.init.filterCutoff, cfg.init.filterResonance, cfg.init.eqBassGain,
        cfg.init.eqMidGain, cfg.init.eqTrebleGain, cfg.init.reverbRoomSize, cfg.init.reverbDamping, cfg.init.reverbWet,
        cfg.init.delayTime, cfg.init.delayFeedback, cfg.init.delayMix], fIsNaN x = false := by
  simp only [isInstance, initNotNaN, Bool.and_eq_true, decide_eq_true_eq, Bool.not_eq_true', List.forall_mem_cons,
    List.not_mem_nil, IsEmpty.forall_iff, implies_true, and_true,
    and_assoc]

/-- Settles O8. -/
theorem stepWithoutCommand : Obligations.StepWithoutCommand :=
  ⟨⟨fun _ h => step_of_not_instance h, fun _ h => step_ne_refused_of_instance h _,
      fun s h he => step_of_empty_port h ((runEnded_iff s).1 he), isInstance_iff⟩,
    fun _ _ h hp => step_of_reset h hp⟩

end Sys2Proof.Machine
end

-- Proofs of the family 00_scope.md: rounding to nearest even.
section
/-! Rounding is to nearest even (00_scope.md R12): first over the bits 30:0 alone, where neighbouring magnitudes are
neighbouring numbers; then with the sign and the overflow bound; then over the rationals, for each operation. -/

namespace Sys2Proof.Machine

open Sys2Proof

/-! ### The nearest magnitude -/

/-- How far the magnitude of the bits m lies from n/d, in units of 2^-149 and scaled by d. -/
def patternDistance (n d m : Nat) : Nat := (((patternUnits m * d : Nat) : Int) - n).natAbs

/-- No magnitude is nearer to n/d than the rounded one, and where another is as near the rounded bits are even. -/
theorem roundPattern_nearest (n : Nat) {d : Nat} (hd : 0 < d) (m : Nat) :
    patternDistance n d (roundPattern n d) ≤ patternDistance n d m ∧
      (patternDistance n d (roundPattern n d) = patternDistance n d m → m = roundPattern n d ∨ roundPattern n d % 2 = 0) := by
  obtain ⟨_, _, below, above⟩ := round_between n hd
  obtain ⟨unitsLow, unitsHigh⟩ := patternUnits_roundFloor n hd
  have taken := roundPattern_cases n hd
  dsimp only at taken
  unfold patternDistance
  generalize roundPattern n d = p at *
  generalize roundFloor n d = q at *
  generalize roundExponent n d = e at *
  have low : patternUnits (e * 2 ^ 23 + q) * d = q * (d * 2 ^ e) := by rw [unitsLow]; ring
  have high : patternUnits (e * 2 ^ 23 + (q + 1)) * d = q * (d * 2 ^ e) + d * 2 ^ e := by rw [unitsHigh]; ring
  rw [Nat.succ_mul] at above
  have rising : ∀ {a b : Nat}, a < b → patternUnits a * d < patternUnits b * d := fun h =>
    Nat.mul_lt_mul_of_pos_right (patternUnits_strictMono h) hd
  have place : patternUnits m * d < patternUnits (e * 2 ^ 23 + q) * d ∨ m = e * 2 ^ 23 + q ∨ m = e * 2 ^ 23 + (q + 1) ∨
      patternUnits (e * 2 ^ 23 + (q + 1)) * d < patternUnits m * d := by
    rcases lt_trichotomy m (e * 2 ^ 23 + q) with h | h | h
    · exact .inl (rising h)
    · exact .inr (.inl h)
    · rcases eq_or_lt_of_le (show e * 2 ^ 23 + (q + 1) ≤ m by omega) with h | h
      · exact .inr (.inr (.inl h.symm))
      · exact .inr (.inr (.inr (rising h)))
  rcases taken with ⟨rfl, half, tie⟩ | ⟨rfl, half, tie⟩ <;> rcases place with h | rfl | rfl | h <;> omega

/-- The magnitude of the largest finite F. -/
theorem patternUnits_max : patternUnits 0x7F7FFFFF = (2 ^ 24 - 1) * 2 ^ 253 := by decide

/-- Rounding overflows from half a spacing above the largest finite F on: there the tie goes to the even bits, those of
infinity. -/
theorem roundPattern_lt_inf_iff (n : Nat) {d : Nat} (hd : 0 < d) :
    roundPattern n d < 0x7F800000 ↔ n < (2 ^ 25 - 1) * 2 ^ 252 * d := by
  have nearMax := roundPattern_nearest n hd 0x7F7FFFFF
  have nearInf := roundPattern_nearest n hd 0x7F800000
  have rising : ∀ {a b : Nat}, a < b → patternUnits a * d < patternUnits b * d := fun h =>
    Nat.mul_lt_mul_of_pos_right (patternUnits_strictMono h) hd
  unfold patternDistance at nearMax nearInf
  rcases lt_trichotomy (roundPattern n d) 0x7F7FFFFF with h | h | h
  · have := rising h
    rw [patternUnits_max] at nearMax this
    generalize patternUnits (roundPattern n d) * d = u at *
    omega
  · rw [h, patternUnits_max, fMagnitude_inf] at nearInf
    rw [h]
    omega
  · have : patternUnits 0x7F800000 * d ≤ patternUnits (roundPattern n d) * d :=
      Nat.mul_le_mul_right d (patternUnits_strictMono.monotone h)
    rw [patternUnits_max] at nearMax
    rw [fMagnitude_inf] at this
    generalize patternUnits (roundPattern n d) * d = u at *
    omega

/-! ### With the sign -/

/-- The last bit of an F is that of its bits 30:0. -/
theorem getLsbD_zero_eq_false_iff (x : F32) : x.getLsbD 0 = false ↔ fBits x % 2 = 0 := by
  unfold fBits
  rw [BitVec.getLsbD, Nat.testBit_zero, decide_eq_false_iff_not]
  omega

/-- The value that a rounding below the overflow bound gives. -/
theorem fUnits_fRound {s : Bool} {n d : Nat} (h : roundPattern n d < 0x7F800000) :
    fUnits (fRound s n d) = signed s (patternUnits (roundPattern n d)) := by
  rw [fUnits_eq, fSign_fRound, fMagnitude_eq, fBits_fRound, fRoundMagnitude_eq, Nat.min_eq_left h.le]

/-- Numbers of one sign lie as far apart as their magnitudes. -/
theorem natAbs_signed_sub_signed (s : Bool) (a b : Nat) :
    (signed s a - signed s b).natAbs = ((a : Int) - b).natAbs := by
  cases s
  · rfl
  · simp only [signed, if_true]
    omega

/-- Numbers of two signs lie as far apart as the sum of their magnitudes. -/
theorem natAbs_signed_sub_signed_of_ne {s t : Bool} (h : t ≠ s) (a b : Nat) :
    (signed t a - signed s b).natAbs = a + b := by
  cases s <;> cases t <;> simp [signed] at h ⊢ <;> omega

theorem signed_mul_natCast (s : Bool) (a b : Nat) : signed s a * b = signed s (a * b) := by cases s <;> simp [signed]

/-- No F is nearer to ±n/d than the rounded one, and where an F of another value is as near the rounded one is even. -/
theorem fRound_nearest {s : Bool} {n d : Nat} (hd : 0 < d) (hp : roundPattern n d < 0x7F800000) (z : F32) :
    (fUnits (fRound s n d) * d - signed s n).natAbs ≤ (fUnits z * d - signed s n).natAbs ∧
      ((fUnits (fRound s n d) * d - signed s n).natAbs = (fUnits z * d - signed s n).natAbs →
        fUnits z = fUnits (fRound s n d) ∨ (fRound s n d).getLsbD 0 = false) := by
  obtain ⟨near, tie⟩ := roundPattern_nearest n hd (fBits z)
  unfold patternDistance at near tie
  rw [getLsbD_zero_eq_false_iff, fBits_fRound, fRoundMagnitude_eq, Nat.min_eq_left hp.le, fUnits_fRound hp, fUnits_eq z,
    fMagnitude_eq, signed_mul_natCast, signed_mul_natCast, natAbs_signed_sub_signed]
  by_cases hs : fSign z = s
  · rw [hs, natAbs_signed_sub_signed]
    exact ⟨near, fun h => (tie h).imp_left fun hm => by rw [hm]⟩
  · rw [natAbs_signed_sub_signed_of_ne hs]
    refine ⟨by omega, fun h => (tie (by omega)).imp_left fun hm => ?_⟩
    -- as near from the other side of zero: both are zeros
    have hzero : patternUnits (roundPattern n d) * d = 0 := by
      by_cases hn : n = 0
      · have : roundPattern n d = 0 := Nat.le_zero.1 (roundPattern_le hd (by simp [hn]))
        rw [this]
        exact Nat.zero_mul d
      · rw [hm] at h
        omega
    have hzero' : patternUnits (roundPattern n d) = 0 := (Nat.mul_eq_zero.1 hzero).resolve_right hd.ne'
    rw [hm, hzero']
    cases s <;> cases fSign z <;> rfl

/-! ### Over the rationals -/

/-- The distance of an F from q = ±n/d, in units and scaled by d. -/
theorem abs_fValue_sub {s : Bool} {n d : Nat} (hd : 0 < d) {q : ℚ} (hq : q * (d * fOneUnits) = signed s n) (z : F32) :
    |fValue z - q| * (d * fOneUnits) = (fUnits z * d - signed s n).natAbs := by
  have hU : (0 : ℚ) < fOneUnits := Nat.cast_pos.2 fOneUnits_pos
  have hd' : (0 : ℚ) < d := Nat.cast_pos.2 hd
  calc |fValue z - q| * (d * fOneUnits) = |fValue z * (d * fOneUnits) - q * (d * fOneUnits)| := by
        rw [← sub_mul, abs_mul, abs_of_pos (mul_pos hd' hU)]
    _ = |((fUnits z * d - signed s n : Int) : ℚ)| := by
        rw [hq]
        unfold fValue
        push_cast
        congr 2
        field_simp
    _ = _ := by rw [Nat.cast_natAbs, Int.cast_abs]

/-- `fRound` rounds the number ±n/d units of 2^-149 to nearest even. -/
theorem isNearestEven_fRound {s : Bool} {n d : Nat} (hd : 0 < d) {q : ℚ} (hq : q * (d * fOneUnits) = signed s n) :
    isNearestEven (fRound s n d) q := by
  have hU : (0 : ℚ) < fOneUnits := Nat.cast_pos.2 fOneUnits_pos
  have hd' : (0 : ℚ) < d := Nat.cast_pos.2 hd
  have hpos := mul_pos hd' hU
  have habs : |q| * (d * fOneUnits) = n := by
    rw [← abs_of_pos hpos, ← abs_mul, hq]
    cases s <;> simp [signed]
  have hbound : |q| < 2 ^ 128 - 2 ^ 103 ↔ roundPattern n d < 0x7F800000 := by
    rw [roundPattern_lt_inf_iff n hd, ← mul_lt_mul_iff_left₀ hpos, habs, ← Nat.cast_lt (α := ℚ)]
    have : ((2 : ℚ) ^ 128 - 2 ^ 103) * (d * fOneUnits) = (((2 ^ 25 - 1) * 2 ^ 252 * d : Nat) : ℚ) := by
      unfold fOneUnits
      rw [show 2 ^ 25 - 1 = 33554431 by norm_num]
      push_cast
      ring
    rw [this]
  unfold isNearestEven
  split_ifs with h
  · have hp := hbound.1 h
    refine ⟨?_, fun z _ => ?_⟩
    · rw [fIsFinite_iff, fBits_fRound, fRoundMagnitude_eq]
      omega
    · obtain ⟨near, tie⟩ := fRound_nearest (s := s) hd hp z
      rw [← mul_le_mul_iff_left₀ hpos, ← mul_left_inj' hpos.ne', abs_fValue_sub hd hq, abs_fValue_sub hd hq]
      refine ⟨by exact_mod_cast near, fun he => (tie (by exact_mod_cast he)).imp_left fun hz => ?_⟩
      unfold fValue
      rw [hz]
  · rw [hbound] at h
    have hn : n ≠ 0 := by
      rintro rfl
      exact h ((roundPattern_lt_inf_iff 0 hd).2 (by omega))
    have hs : decide (q < 0) = s := by
      have hlt : q < 0 ↔ (signed s n : ℚ) < 0 := by
        rw [← mul_lt_mul_iff_left₀ hpos, hq, zero_mul]
      rw [Bool.eq_iff_iff, decide_eq_true_iff, hlt]
      cases s
      · simp [signed]
      · simp [signed, Nat.pos_of_ne_zero hn]
    rw [hs, fRound, fRoundMagnitude_eq, Nat.min_eq_right (not_lt.1 h), fInf]

/-! ### The operations -/

/-- The value, by units. -/
theorem fValue_eq_units_div (x : F32) : fValue x = (fUnits x : ℚ) / fOneUnits := rfl

theorem fOneUnits_ne_zero : (fOneUnits : ℚ) ≠ 0 := Nat.cast_ne_zero.2 fOneUnits_pos.ne'

/-- Only the two zeros have the value 0. -/
theorem fUnits_eq_zero_iff (x : F32) : fUnits x = 0 ↔ fMagnitude x = 0 := by
  rw [← natAbs_fUnits, Int.natAbs_eq_zero]

section

variable {x y : F32} (hx : fIsFinite x = true) (hy : fIsFinite y = true)
include hx hy

theorem fAdd_isNearestEven : isNearestEven (fAdd x y) (fValue x + fValue y) := by
  rw [fAdd_finite hx hy]
  refine isNearestEven_fRound Nat.one_pos ?_
  rw [signed_natAbs, fValue_eq_units_div, fValue_eq_units_div]
  have := fOneUnits_ne_zero
  push_cast
  field_simp

theorem fSub_isNearestEven : isNearestEven (fSub x y) (fValue x - fValue y) := by
  rw [fSub_finite hx hy]
  refine isNearestEven_fRound Nat.one_pos ?_
  rw [signed_natAbs, fValue_eq_units_div, fValue_eq_units_div]
  have := fOneUnits_ne_zero
  push_cast
  field_simp

theorem fMul_isNearestEven : isNearestEven (fMul x y) (fValue x * fValue y) := by
  rw [fMul_finite hx hy]
  refine isNearestEven_fRound fOneUnits_pos ?_
  rw [signed_mul, fValue_eq_units_div, fValue_eq_units_div]
  have := fOneUnits_ne_zero
  push_cast
  field_simp

theorem fDiv_isNearestEven (h : fMagnitude y ≠ 0) : isNearestEven (fDiv x y) (fValue x / fValue y) := by
  rw [fDiv_finite hx hy h]
  refine isNearestEven_fRound (Nat.pos_of_ne_zero h) ?_
  have hU := fOneUnits_ne_zero
  have hy0 : (fUnits y : ℚ) ≠ 0 := by exact_mod_cast mt (fUnits_eq_zero_iff y).1 h
  have hm0 : (fMagnitude y : ℚ) ≠ 0 := by exact_mod_cast h
  have hsq : (fMagnitude y : ℚ) * fMagnitude y = fUnits y * fUnits y := by
    exact_mod_cast (by rw [← natAbs_fUnits, Int.natAbs_mul_self] :
      ((fMagnitude y * fMagnitude y : Nat) : Int) = fUnits y * fUnits y)
  have hs : (signed (fSign x != fSign y) (fMagnitude x * fOneUnits) : ℚ) * fMagnitude y
      = fUnits x * fUnits y * fOneUnits := by exact_mod_cast fMul_signed x y fOneUnits
  rw [← mul_left_inj' hm0, hs, fValue_eq_units_div, fValue_eq_units_div]
  calc _ = (fUnits x : ℚ) / fUnits y * (fMagnitude y * fMagnitude y) * fOneUnits := by field_simp
    _ = _ := by
        rw [hsq]
        field_simp

theorem fSign_fMul : fSign (fMul x y) = (fSign x != fSign y) := by rw [fMul_finite hx hy, fSign_fRound]

theorem fSign_fDiv (h : fMagnitude y ≠ 0) : fSign (fDiv x y) = (fSign x != fSign y) := by
  rw [fDiv_finite hx hy h, fSign_fRound]

/-- An exact zero sum is -0 only of two negative zeros. -/
theorem fSign_fAdd_of_zero (h : fValue x + fValue y = 0) : fSign (fAdd x y) = (fSign x && fSign y) := by
  have hz : fUnits x + fUnits y = 0 := by
    rw [fValue_eq_units_div, fValue_eq_units_div, ← add_div, div_eq_zero_iff] at h
    exact_mod_cast h.resolve_right fOneUnits_ne_zero
  rw [fAdd_finite hx hy, fSign_fRound, if_pos hz]

/-- An exact zero difference is -0 only of -0 and +0. -/
theorem fSign_fSub_of_zero (h : fValue x - fValue y = 0) : fSign (fSub x y) = (fSign x && !fSign y) := by
  have hz : fUnits x - fUnits y = 0 := by
    rw [fValue_eq_units_div, fValue_eq_units_div, ← sub_div, div_eq_zero_iff] at h
    exact_mod_cast h.resolve_right fOneUnits_ne_zero
  rw [fSub_finite hx hy, fSign_fRound, if_pos hz]

end

theorem signed_decide_neg (z : Int) : signed (decide (z < 0)) z.natAbs = z := by
  simp only [signed, decide_eq_true_eq]
  split <;> omega

theorem fOfInt_isNearestEven (z : Int) : isNearestEven (fOfInt z) z := by
  refine isNearestEven_fRound Nat.one_pos ?_
  rw [← signed_mul_natCast, signed_decide_neg]
  push_cast
  ring

theorem fOfNat_isNearestEven (n : Nat) : isNearestEven (fOfNat n) n := by
  refine isNearestEven_fRound Nat.one_pos ?_
  simp [signed]

theorem fDecimal_isNearestEven (p : Nat) {q : Nat} (hq : q ≠ 0) : isNearestEven (fDecimal p q) ((p : ℚ) / q) := by
  refine isNearestEven_fRound (Nat.pos_of_ne_zero hq) ?_
  have : (q : ℚ) ≠ 0 := Nat.cast_ne_zero.2 hq
  simp only [signed, Bool.false_eq_true, if_false]
  push_cast
  field_simp

theorem fSign_fDecimal (p q : Nat) : fSign (fDecimal p q) = false := fSign_fRound _ _ _

/-- Settles O48: every operation is one `fRound` of the exact result, and `fRound` rounds to nearest even. -/
theorem arithmeticRoundsToNearestEven : Obligations.ArithmeticRoundsToNearestEven :=
  ⟨fun _ _ hx hy => ⟨fAdd_isNearestEven hx hy, fSub_isNearestEven hx hy, fMul_isNearestEven hx hy, fSign_fMul hx hy,
      fun h => ⟨fDiv_isNearestEven hx hy h, fSign_fDiv hx hy h⟩⟩,
    fun _ _ hx hy => ⟨fSign_fAdd_of_zero hx hy, fSign_fSub_of_zero hx hy⟩, fOfInt_isNearestEven,
    fun n => ⟨fOfNat_isNearestEven n, fSign_fOfNat n⟩,
    fun p q hq => ⟨fDecimal_isNearestEven p hq, fSign_fDecimal p q⟩⟩

end Sys2Proof.Machine
end

-- Proofs of the family 00_scope.md: toInt16 and clampF.
section
/-! Comparisons by units, the integers that are F, and with them toInt16 and clampF (00_scope.md R12, R14). -/

namespace Sys2Proof.Machine

open Sys2Proof

/-! ### Comparisons by units -/

theorem fLt_iff (x y : F32) : fLt x y = true ↔ fIsNaN x = false ∧ fIsNaN y = false ∧ fUnits x < fUnits y := by
  simp [fLt, and_assoc]

theorem fLe_iff (x y : F32) : fLe x y = true ↔ fIsNaN x = false ∧ fIsNaN y = false ∧ fUnits x ≤ fUnits y := by
  simp [fLe, and_assoc]

theorem fEq_iff (x y : F32) : fEq x y = true ↔ fIsNaN x = false ∧ fIsNaN y = false ∧ fUnits x = fUnits y := by
  simp [fEq, and_assoc]

/-! ### Integers that are F -/

/-- F(n) of a natural number, either way written. -/
theorem fOfInt_natCast (n : Nat) : fOfInt n = fOfNat n := by
  have : ¬ (n : Int) < 0 := by omega
  simp [fOfInt, fOfNat, this]

/-- F of a negative integer is the negation of F of its absolute value. -/
theorem fUnits_fOfInt_neg {n : Nat} (h0 : 0 < n) (h : n ≤ 2 ^ 24) : fUnits (fOfInt (-n)) = -(n * fOneUnits) := by
  have hneg : decide ((-n : Int) < 0) = !false := by
    rw [Bool.not_false, decide_eq_true_eq]
    omega
  rw [fOfInt, hneg, Int.natAbs_neg, Int.natAbs_natCast, fUnits_fRound_neg, ← (fOfNat_units h).1, fOfNat]

theorem fIsNaN_fOfInt (z : Int) : fIsNaN (fOfInt z) = false := fIsNaN_fRound _ _ _

/-! ### toInt16 -/

/-- The bounds of toInt16, in units. -/
theorem fUnits_int16_max : fUnits (fOfNat 32767) = 32767 * fOneUnits := (fOfNat_units (by norm_num)).1

theorem fUnits_int16_min : fUnits (fOfInt (-32768)) = -(32768 * fOneUnits) :=
  fUnits_fOfInt_neg (n := 32768) (by norm_num) (by norm_num)

theorem toInt16_of_nan {v : F32} (h : fIsNaN v = true) : (toInt16 v).toInt = 0 := by simp [toInt16, h]

theorem fOfInt_int16_max : fOfInt 32767 = fOfNat 32767 := fOfInt_natCast 32767

theorem toInt16_of_ge {v : F32} (h : fLe (fOfInt 32767) v = true) : (toInt16 v).toInt = 32767 := by
  rw [fOfInt_int16_max] at h
  obtain ⟨_, hn, _⟩ := (fLe_iff _ _).1 h
  simp [toInt16, h, hn]

theorem toInt16_of_le {v : F32} (h : fLe v (fOfInt (-32768)) = true) : (toInt16 v).toInt = -32768 := by
  obtain ⟨hn, _, hle⟩ := (fLe_iff _ _).1 h
  have hlow : fLe (fOfNat 32767) v = false := by
    rw [Bool.eq_false_iff, ne_eq, fLe_iff, fUnits_int16_max]
    rintro ⟨_, _, hge⟩
    rw [fUnits_int16_min] at hle
    have := fOneUnits_pos
    omega
  simp [toInt16, hn, hlow, h]

/-- Between its bounds toInt16 is the quotient that truncates toward zero. -/
theorem toInt16_of_between {v : F32} (hlo : fLt (fOfInt (-32768)) v = true) (hhi : fLt v (fOfInt 32767) = true) :
    (toInt16 v).toInt = (fUnits v).tdiv fOneUnits := by
  obtain ⟨_, hn, lo⟩ := (fLt_iff _ _).1 hlo
  obtain ⟨_, _, hi⟩ := (fLt_iff _ _).1 hhi
  have hmax : fLe (fOfNat 32767) v = false := by
    rw [Bool.eq_false_iff, ne_eq, fLe_iff]
    rintro ⟨_, _, h⟩
    rw [← fOfInt_int16_max] at h
    exact absurd h (not_le.2 hi)
  have hmin : fLe v (fOfInt (-32768)) = false := by
    rw [Bool.eq_false_iff, ne_eq, fLe_iff]
    rintro ⟨_, _, h⟩
    exact absurd h (not_le.2 lo)
  rw [toInt16, hn, hmax, hmin]
  simp only [Bool.false_eq_true, if_false]
  rw [fUnits_int16_min] at lo
  rw [fOfInt_int16_max, fUnits_int16_max] at hi
  have hquot : ((fUnits v).tdiv fOneUnits).natAbs < 32768 := by
    rw [Int.natAbs_tdiv, Int.natAbs_natCast]
    have := fOneUnits_pos
    exact Nat.div_lt_of_lt_mul (by rw [Nat.mul_comm]; omega)
  exact BitVec.toInt_ofInt_eq_self (by norm_num) (by norm_num; omega) (by norm_num; omega)

theorem fValue_nonneg_iff (v : F32) : 0 ≤ fValue v ↔ 0 ≤ fUnits v := by
  rw [fValue_eq_units_div, le_div_iff₀ (Nat.cast_pos.2 fOneUnits_pos), zero_mul, Int.cast_nonneg_iff]

theorem fValue_nonpos_iff (v : F32) : fValue v ≤ 0 ↔ fUnits v ≤ 0 := by
  rw [fValue_eq_units_div, div_le_iff₀ (Nat.cast_pos.2 fOneUnits_pos), zero_mul, Int.cast_nonpos]

/-- Truncation is the floor of a nonnegative value. -/
theorem tdiv_eq_floor {v : F32} (h : 0 ≤ fValue v) : (fUnits v).tdiv fOneUnits = ⌊fValue v⌋ := by
  rw [Int.tdiv_eq_ediv_of_nonneg ((fValue_nonneg_iff v).1 h), fValue_eq_units_div, Rat.floor_intCast_div_natCast]

/-- Truncation is the ceiling of a value that is not positive. -/
theorem tdiv_eq_ceil {v : F32} (h : fValue v ≤ 0) : (fUnits v).tdiv fOneUnits = ⌈fValue v⌉ := by
  have hneg : 0 ≤ -fUnits v := by
    have := (fValue_nonpos_iff v).1 h
    omega
  rw [fValue_eq_units_div, Rat.ceil_intCast_div_natCast, ← Int.tdiv_eq_ediv_of_nonneg hneg, Int.neg_tdiv, neg_neg]

/-! ### clampF -/

theorem clampF_of_lt {v lo : F32} (hi : F32) (h : fLt v lo = true) : clampF v lo hi = lo := by simp [clampF, h]

theorem clampF_of_gt {v lo hi : F32} (hlo : fLt v lo = false) (h : fLt hi v = true) : clampF v lo hi = hi := by
  simp [clampF, hlo, h]

theorem clampF_of_between {v lo hi : F32} (hlo : fLt v lo = false) (hhi : fLt hi v = false) : clampF v lo hi = v := by
  simp [clampF, hlo, hhi]

/-- Settles O51. -/
theorem toInt16AndClamp : Obligations.ToInt16AndClamp :=
  ⟨fun _ => ⟨toInt16_of_nan, toInt16_of_ge, toInt16_of_le, fun hlo hhi =>
      ⟨fun h => (toInt16_of_between hlo hhi).trans (tdiv_eq_floor h),
        fun h => (toInt16_of_between hlo hhi).trans (tdiv_eq_ceil h)⟩⟩,
    fun _ _ hi => ⟨clampF_of_lt hi, clampF_of_gt, clampF_of_between⟩⟩

end Sys2Proof.Machine
end

-- Proofs of the family 00_scope.md: sinF, cosF, pow2F and pow10F.
section
/-! What R13 fixes of sinF, cosF, pow2F and pow10F (00_scope.md): the range of the first two, and that the powers are exact
wherever the exact power is an F, which bounds the exponent. -/

namespace Sys2Proof.Machine

open Sys2Proof

/-! ### The range of sinF and cosF -/

@[simp] theorem fBits_fZero (s : Bool) : fBits (fZero s) = 0 := fBits_fPack s (by norm_num)

@[simp] theorem fUnits_fZero (s : Bool) : fUnits (fZero s) = 0 := by
  rw [fUnits_eq_zero_iff, fMagnitude_eq, fBits_fZero]
  rfl

@[simp] theorem fIsNaN_fZero (s : Bool) : fIsNaN (fZero s) = false := by
  rw [Bool.eq_false_iff, ne_eq, fIsNaN_iff, fBits_fZero]
  norm_num

/-- Either zero lies in [-1, 1]. -/
theorem fZero_inUnitRange (s : Bool) : fInRange (fOfInt (-1)) (fZero s) (fOfNat 1) = true := by
  have hlo : fUnits (fOfInt (-1)) = -((1 : Nat) * fOneUnits) := fUnits_fOfInt_neg (n := 1) (by norm_num) (by norm_num)
  refine fInRange_units.2 ⟨fIsNaN_fOfInt _, fIsNaN_fZero s, fOfNat_not_nan 1, ?_, ?_⟩
  · rw [hlo, fUnits_fZero]
    omega
  · rw [fUnits_fZero]
    exact fUnits_fOfNat_nonneg 1

theorem unitResult_inUnitRange (r : F32) : fInRange (fOfInt (-1)) (unitResult r) (fOfNat 1) = true := by
  unfold unitResult
  split_ifs with h
  · exact h
  · exact fZero_inUnitRange false

theorem sinF_zero : sinF 0 = 0 := by simp [sinF]

theorem sinF_inUnitRange (x : F32) : fInRange (fOfInt (-1)) (sinF x) (fOfNat 1) = true := by
  unfold sinF
  split_ifs
  · exact fZero_inUnitRange false
  · exact fZero_inUnitRange _
  · exact unitResult_inUnitRange _

theorem cosF_inUnitRange (x : F32) : fInRange (fOfInt (-1)) (cosF x) (fOfNat 1) = true := unitResult_inUnitRange _

/-! ### The powers -/

theorem fUnits_of_fValue {x : F32} {q : ℚ} (h : fValue x = q) : (fUnits x : ℚ) = q * fOneUnits := by
  rw [← h, fValue_eq_units_div, div_mul_cancel₀ _ fOneUnits_ne_zero]

/-- An F whose value is an integer is seen as that integer. -/
theorem fInteger?_of_fValue {x : F32} {k : Int} (hx : fIsFinite x = true) (h : fValue x = k) : fInteger? x = some k := by
  have hu : fUnits x = k * fOneUnits := by exact_mod_cast fUnits_of_fValue h
  have hU : (fOneUnits : Int) ≠ 0 := Int.natCast_ne_zero.2 fOneUnits_pos.ne'
  simp [fInteger?, hx, hu, Int.mul_ediv_cancel _ hU]

theorem fSign_of_fUnits_pos {x : F32} (h : 0 < fUnits x) : fSign x = false := by
  rw [fUnits_eq] at h
  cases hs : fSign x
  · rfl
  · rw [hs] at h
    simp only [signed, if_true] at h
    omega

/-- A positive F is what its own value rounds to. -/
theorem fRound_eq_of_fUnits {r : F32} {n : Nat} (hr : fIsFinite r = true) (hpos : 0 < n) (h : fUnits r = n) :
    fRound false n 1 = r := by
  apply eq_of_fUnits_eq
  · exact fRound_exact Nat.one_pos (not_nan_of_finite hr) (by simp [signed, h])
  · rw [fSign_fRound, fSign_of_fUnits_pos (by omega)]

/-- A power of two that is an F: its exponent lies from -149 to 127. -/
theorem fUnits_of_two_zpow {r : F32} {k : Int} (hr : fIsFinite r = true) (h : fValue r = 2 ^ k) :
    -149 ≤ k ∧ k ≤ 127 ∧ fUnits r = (2 ^ (k + 149).toNat : Nat) := by
  have hu : (fUnits r : ℚ) = 2 ^ (k + 149) := by
    rw [fUnits_of_fValue h, zpow_add₀ two_ne_zero]
    norm_num [fOneUnits]
  have hpos : 0 < fUnits r := by
    have : (0 : ℚ) < fUnits r := hu ▸ zpow_pos two_pos _
    exact_mod_cast this
  have hlow : (0 : Int) ≤ k + 149 := by
    rw [← zpow_le_zpow_iff_right₀ (one_lt_two (α := ℚ)), ← hu, zpow_zero]
    exact_mod_cast hpos
  have hhigh : k + 149 < 277 := by
    rw [← zpow_lt_zpow_iff_right₀ (one_lt_two (α := ℚ)), ← hu]
    have := fMagnitude_lt_of_finite hr
    rw [← natAbs_fUnits] at this
    have : fUnits r < 2 ^ 277 := by omega
    calc (fUnits r : ℚ) < ((2 ^ 277 : Int) : ℚ) := Int.cast_lt.2 this
      _ = 2 ^ (277 : Int) := by rw [Int.cast_pow, Int.cast_ofNat, zpow_ofNat]
  refine ⟨by omega, by omega, ?_⟩
  rw [← Int.toNat_of_nonneg hlow] at hu
  exact_mod_cast hu

theorem pow2F_of_fValue {x r : F32} {k : Int} (hx : fIsFinite x = true) (hr : fIsFinite r = true) (hk : fValue x = k)
    (h : fValue r = 2 ^ k) : pow2F x = r := by
  obtain ⟨hlow, hhigh, hu⟩ := fUnits_of_two_zpow hr h
  rw [pow2F, fInteger?_of_fValue hx hk]
  dsimp only
  rw [if_pos ⟨hlow, hhigh⟩, fRound_eq_of_fUnits hr (Nat.two_pow_pos _) hu]

/-- A power of ten that is an F is an integer: a smaller one has a factor 5 in its denominator. -/
theorem nonneg_of_ten_zpow {r : F32} {k : Int} (h : fValue r = 10 ^ k) : 0 ≤ k := by
  by_contra hk
  obtain ⟨j, rfl⟩ : ∃ j : Nat, k = -((j + 1 : Nat) : Int) := ⟨(-k - 1).toNat, by omega⟩
  have hu : fUnits r * 10 ^ (j + 1) = 2 ^ 149 := by
    have := fUnits_of_fValue h
    rw [zpow_neg, zpow_natCast] at this
    have : (fUnits r : ℚ) * 10 ^ (j + 1) = 2 ^ 149 := by
      rw [this]
      field_simp
      norm_num [fOneUnits]
    exact_mod_cast this
  have : (5 : Int) ∣ 2 ^ 149 := hu ▸ Dvd.dvd.mul_left (dvd_pow (by norm_num) (Nat.succ_ne_zero j)) _
  norm_num at this

/-- A power of ten that is an F has an exponent of at most 10: its factor 5^n must fit into the 24 bits of a significand. -/
theorem le_ten_of_fMagnitude {r : F32} {n : Nat} (h : fMagnitude r = 10 ^ n * fOneUnits) : n ≤ 10 := by
  obtain ⟨e, q, hp, he, hq⟩ := pattern_split (fBits r)
  rw [fMagnitude_eq, hp, patternUnits_of he hq.le] at h
  have hdvd : 5 ^ n ∣ q := by
    refine (Nat.Coprime.pow n e (by norm_num : Nat.Coprime 5 2)).dvd_of_dvd_mul_right ?_
    rw [h, show 10 = 5 * 2 by norm_num, mul_pow, mul_assoc]
    exact Nat.dvd_mul_right _ _
  have hq0 : 0 < q := by
    refine Nat.pos_of_ne_zero fun h0 => ?_
    have : 0 < 10 ^ n * fOneUnits := Nat.mul_pos (by positivity) fOneUnits_pos
    rw [← h, h0] at this
    omega
  by_contra hn
  have h11 : 5 ^ 11 ≤ 5 ^ n := Nat.pow_le_pow_right (by norm_num) (by omega)
  have := Nat.le_of_dvd hq0 hdvd
  omega

theorem pow10F_of_fValue {x r : F32} {k : Int} (hx : fIsFinite x = true) (hr : fIsFinite r = true) (hk : fValue x = k)
    (h : fValue r = 10 ^ k) : pow10F x = r := by
  obtain ⟨n, rfl⟩ := Int.eq_ofNat_of_zero_le (nonneg_of_ten_zpow h)
  rw [zpow_natCast] at h
  have hu : fUnits r = (10 ^ n * fOneUnits : Nat) := by exact_mod_cast fUnits_of_fValue h
  have hn : n ≤ 10 := le_ten_of_fMagnitude (r := r) (by rw [← natAbs_fUnits, hu, Int.natAbs_natCast])
  rw [pow10F, fInteger?_of_fValue hx hk]
  dsimp only
  rw [if_pos ⟨by omega, by omega⟩, Int.toNat_natCast, fOfNat]
  exact fRound_eq_of_fUnits hr (Nat.mul_pos (by positivity) fOneUnits_pos) hu

theorem pow2F_zero : pow2F 0 = fOfNat 1 := by
  have hone := fOfNat_units (n := 1) (by norm_num)
  refine pow2F_of_fValue (k := 0) rfl hone.2 ?_ ?_
  · rw [fValue_eq_units_div, show fUnits 0 = 0 from rfl, Int.cast_zero, zero_div]
  · rw [fValue_eq_units_div, hone.1, Nat.cast_one, one_mul, Int.cast_natCast, div_self fOneUnits_ne_zero, zpow_zero]

/-- Settles O50. -/
theorem transcendentalProperties : Obligations.TranscendentalProperties :=
  ⟨sinF_zero, pow2F_zero, fun x => ⟨sinF_inUnitRange x, cosF_inUnitRange x⟩,
    fun _ _ _ hx hr hk h => pow2F_of_fValue hx hr hk h, fun _ _ _ hx hr hk h => pow10F_of_fValue hx hr hk h⟩

end Sys2Proof.Machine
end

-- Proofs of the family 00_scope.md: NaN, infinities and comparisons.
section
/-! Operands that are no finite F (00_scope.md R12): an infinity is the bits 30:0 beyond every finite F with either sign, and a
delivered NaN is one whatever its free sign and fraction. -/

namespace Sys2Proof.Machine

open Sys2Proof

/-! ### Infinities and the delivered NaN -/

@[simp] theorem fBits_fInf (s : Bool) : fBits (fInf s) = 0x7F800000 := fBits_fPack s (by norm_num)

@[simp] theorem fSign_fInf (s : Bool) : fSign (fInf s) = s := fSign_fPack s (by norm_num)

@[simp] theorem fIsInf_fInf (s : Bool) : fIsInf (fInf s) = true := by rw [fIsInf_iff, fBits_fInf]

@[simp] theorem fIsNaN_fInf (s : Bool) : fIsNaN (fInf s) = false := by
  rw [Bool.eq_false_iff, ne_eq, fIsNaN_iff, fBits_fInf]
  norm_num

theorem fMagnitude_fInf (s : Bool) : fMagnitude (fInf s) = patternUnits 0x7F800000 := by rw [fMagnitude_eq, fBits_fInf]

theorem patternUnits_inf_pos : 0 < patternUnits 0x7F800000 := 
  Nat.zero_lt_of_lt (patternUnits_strictMono (show 0 < 0x7F800000 by norm_num))

theorem fMagnitude_fInf_ne_zero (s : Bool) : fMagnitude (fInf s) ≠ 0 := by
  rw [fMagnitude_fInf]
  exact patternUnits_inf_pos.ne'

theorem fUnits_fInf (s : Bool) : fUnits (fInf s) = signed s (patternUnits 0x7F800000) := by
  rw [fUnits_eq, fSign_fInf, fMagnitude_fInf]

/-- There is one infinity of each sign. -/
theorem eq_fInf_of_isInf {x : F32} (h : fIsInf x = true) : x = fInf (fSign x) := by
  rw [fInf, ← (fIsInf_iff x).1 h, fPack_fBits]

theorem fNeg_fInf (s : Bool) : fNeg (fInf s) = fInf (!s) := by cases s <;> rfl

theorem fNeg_fNeg (x : F32) : fNeg (fNeg x) = x := by
  unfold fNeg
  rw [BitVec.xor_assoc, BitVec.xor_self, BitVec.xor_zero]

/-- Every F is finite, an infinity or a NaN. -/
theorem fIsFinite_eq (x : F32) : fIsFinite x = (!fIsNaN x && !fIsInf x) := by
  rw [Bool.eq_iff_iff, Bool.and_eq_true, Bool.not_eq_true', Bool.not_eq_true', Bool.eq_false_iff, Bool.eq_false_iff, ne_eq,
    ne_eq, fIsFinite_iff, fIsNaN_iff, fIsInf_iff]
  omega

theorem isInf_of_not_finite {x : F32} (hn : fIsNaN x = false) (h : fIsFinite x = false) : fIsInf x = true := by
  simpa [fIsFinite_eq, hn] using h

/-- Whatever its free sign and fraction, what an operation delivers as a NaN is one. -/
@[simp] theorem fIsNaN_fNaN (op : FOp) (x y : F32) : fIsNaN (fNaN op x y) = true := by
  have := Nat.mod_lt (Config.nanFraction op x y) (show 0 < 2 ^ 23 - 1 by norm_num)
  rw [fIsNaN_iff, fNaN, fBits_fPack _ (by omega)]
  omega

/-! ### Comparisons -/

/-- Two F of one value that is not 0 are the same pattern. -/
theorem eq_of_fUnits_eq_of_ne_zero {x y : F32} (h : fUnits x = fUnits y) (h0 : fMagnitude y ≠ 0) : x = y := by
  refine eq_of_fUnits_eq h ?_
  rw [fUnits_eq, fUnits_eq] at h
  cases hx : fSign x <;> cases hy : fSign y <;> simp [hx, hy, signed] at h ⊢ <;> omega

/-- No value lies beyond the infinities. -/
theorem fUnits_between_inf {x : F32} (h : fIsNaN x = false) :
    fUnits x ≤ fUnits (fInf false) ∧ fUnits (fInf true) ≤ fUnits x := by
  have hle : fMagnitude x ≤ patternUnits 0x7F800000 := by
    rw [fMagnitude_eq]
    exact patternUnits_strictMono.monotone (fBits_le_of_not_nan h)
  rw [← natAbs_fUnits] at hle
  rw [fUnits_fInf, fUnits_fInf]
  simp only [signed, if_true, if_false, Bool.false_eq_true]
  omega

/-- Only an infinity has its value. -/
theorem fUnits_eq_fInf_iff (x : F32) (s : Bool) : fUnits x = fUnits (fInf s) ↔ x = fInf s :=
  ⟨fun h => eq_of_fUnits_eq_of_ne_zero h (fMagnitude_fInf_ne_zero s), fun h => by rw [h]⟩

section

variable {x : F32} (hx : fIsNaN x = false)
include hx

theorem fLt_posInf_iff : fLt x (fInf false) = true ↔ x ≠ fInf false := by
  rw [fLt_iff, lt_iff_le_and_ne, ne_eq, fUnits_eq_fInf_iff]
  simp [hx, fUnits_between_inf hx]

theorem negInf_fLt_iff : fLt (fInf true) x = true ↔ x ≠ fInf true := by
  rw [fLt_iff, lt_iff_le_and_ne, ne_comm, ne_eq, fUnits_eq_fInf_iff]
  simp [hx, fUnits_between_inf hx]

theorem posInf_not_fLt : fLt (fInf false) x = false := by
  rw [Bool.eq_false_iff, ne_eq, fLt_iff]
  exact fun ⟨_, _, h⟩ => absurd h (not_lt.2 (fUnits_between_inf hx).1)

theorem not_fLt_negInf : fLt x (fInf true) = false := by
  rw [Bool.eq_false_iff, ne_eq, fLt_iff]
  exact fun ⟨_, _, h⟩ => absurd h (not_lt.2 (fUnits_between_inf hx).2)

/-- Of values that are no NaN, any two compare. -/
theorem fLe_eq_not_fLt {y : F32} (hy : fIsNaN y = false) : fLe x y = !fLt y x := by
  rw [Bool.eq_iff_iff, Bool.not_eq_true', Bool.eq_false_iff, ne_eq, fLe_iff, fLt_iff]
  simp [hx, hy]

theorem fEq_eq_fLe_and_fLe {y : F32} (hy : fIsNaN y = false) : fEq x y = (fLe x y && fLe y x) := by
  simp [fEq, fLe, hx, hy, le_antisymm_iff]

end

/-- Comparisons of finite F are those of their values. -/
theorem fLt_iff_fValue {x y : F32} (hx : fIsFinite x = true) (hy : fIsFinite y = true) :
    fLt x y = true ↔ fValue x < fValue y := by
  rw [fLt_iff, fValue_eq_units_div, fValue_eq_units_div, div_lt_div_iff_of_pos_right (Nat.cast_pos.2 fOneUnits_pos),
    Int.cast_lt]
  simp [not_nan_of_finite hx, not_nan_of_finite hy]

theorem fLe_iff_fValue {x y : F32} (hx : fIsFinite x = true) (hy : fIsFinite y = true) :
    fLe x y = true ↔ fValue x ≤ fValue y := by
  rw [fLe_eq_not_fLt (not_nan_of_finite hx) (not_nan_of_finite hy), Bool.not_eq_true', Bool.eq_false_iff, ne_eq,
    fLt_iff_fValue hy hx, not_lt]

theorem fEq_iff_fValue {x y : F32} (hx : fIsFinite x = true) (hy : fIsFinite y = true) :
    fEq x y = true ↔ fValue x = fValue y := by
  rw [fEq_eq_fLe_and_fLe (not_nan_of_finite hx) (not_nan_of_finite hy), Bool.and_eq_true, fLe_iff_fValue hx hy,
    fLe_iff_fValue hy hx, le_antisymm_iff]

theorem fNe_iff_fValue {x y : F32} (hx : fIsFinite x = true) (hy : fIsFinite y = true) :
    fNe x y = true ↔ fValue x ≠ fValue y := by
  rw [fNe, Bool.not_eq_true', Bool.eq_false_iff, ne_eq, fEq_iff_fValue hx hy]

/-! ### Operations on an infinity -/

theorem fSum_fInf_right (op : FOp) {s : Bool} {x : F32} (h : x ≠ fInf !s) : fSum op x (fInf s) = fInf s := by
  unfold fSum
  by_cases hinf : fIsInf x = true
  · have hx := eq_fInf_of_isInf hinf
    have hs : fSign x = s := by
      by_contra hne
      exact h (by rw [hx, Bool.eq_not.2 hne])
    rw [hs] at hx
    simp [hx]
  · simp [hinf]

theorem fSum_fInf_left (op : FOp) {s : Bool} {x : F32} (h : x ≠ fInf !s) : fSum op (fInf s) x = fInf s := by
  unfold fSum
  rw [fIsInf_fInf, if_pos rfl, if_neg]
  rw [Bool.and_eq_true, fSign_fInf, bne_iff_ne]
  rintro ⟨hinf, hne⟩
  exact h (by rw [eq_fInf_of_isInf hinf, Bool.eq_not.2 (Ne.symm hne)])

theorem fSum_opposite_fInf (op : FOp) (s : Bool) : fSum op (fInf !s) (fInf s) = fNaN op (fInf !s) (fInf s) := by
  simp [fSum]

/-- A sum with an infinity that is not the opposite one. -/
theorem fAdd_fInf {s : Bool} {x : F32} (hx : fIsNaN x = false) (h : x ≠ fInf !s) :
    fAdd x (fInf s) = fInf s ∧ fAdd (fInf s) x = fInf s := by
  simp [fAdd, hx, fSum_fInf_right _ h, fSum_fInf_left _ h]

theorem fAdd_opposite_fInf (s : Bool) : fIsNaN (fAdd (fInf !s) (fInf s)) = true := by
  simp only [fAdd, fIsNaN_fInf, fSum_opposite_fInf, Bool.or_self, Bool.false_eq_true, if_false, fIsNaN_fNaN]

/-- A difference with an infinity other than the same one. -/
theorem fSub_fInf {s : Bool} {x : F32} (hx : fIsNaN x = false) (h : x ≠ fInf s) :
    fSub x (fInf s) = fInf (!s) ∧ fSub (fInf s) x = fInf s := by
  have hneg : fNeg x ≠ fInf !s := fun hc => h (by rw [← fNeg_fNeg x, hc, fNeg_fInf, Bool.not_not])
  have hnot : x ≠ fInf (!!s) := by rwa [Bool.not_not]
  simp [fSub, hx, fNeg_fInf, fSum_fInf_right _ hnot, fSum_fInf_left _ hneg]

theorem fSub_same_fInf (s : Bool) : fIsNaN (fSub (fInf s) (fInf s)) = true := by
  have h := fSum_opposite_fInf .sub (!s)
  rw [Bool.not_not] at h
  simp [fSub, fNeg_fInf, h]

/-- A product with an infinity: an infinity, or a NaN for a zero. -/
theorem fMul_fInf {s : Bool} {x : F32} (hx : fIsNaN x = false) (h : fMagnitude x ≠ 0) :
    fMul x (fInf s) = fInf (fSign x != s) ∧ fMul (fInf s) x = fInf (fSign x != s) := by
  simp [fMul, hx, h, fMagnitude_fInf_ne_zero, Bool.xor_comm]

theorem fMul_zero_fInf {s : Bool} {x : F32} (hx : fIsNaN x = false) (h : fMagnitude x = 0) :
    fIsNaN (fMul x (fInf s)) = true ∧ fIsNaN (fMul (fInf s) x) = true := by
  simp [fMul, hx, h]

/-- A quotient of an infinity and a finite F. -/
theorem fDiv_fInf_finite {s : Bool} {x : F32} (hx : fIsFinite x = true) :
    fDiv (fInf s) x = fInf (s != fSign x) ∧ fDiv x (fInf s) = fZero (fSign x != s) := by
  simp [fDiv, not_nan_of_finite hx, not_inf_of_finite hx]

theorem fDiv_fInf_fInf {s : Bool} {x : F32} (hx : fIsInf x = true) : fIsNaN (fDiv (fInf s) x) = true := by
  have hn : fIsNaN x = false := by rw [eq_fInf_of_isInf hx, fIsNaN_fInf]
  simp [fDiv, hx, hn]

/-- Division by a zero: an infinity, or a NaN for a zero. -/
theorem fDiv_zero {x y : F32} (hx : fIsFinite x = true) (hy : fMagnitude y = 0) :
    (fMagnitude x ≠ 0 → fDiv x y = fInf (fSign x != fSign y)) ∧ (fMagnitude x = 0 → fIsNaN (fDiv x y) = true) := by
  have hyf : fIsFinite y = true := finite_of_fMagnitude_lt (hy ▸ pow_pos two_pos 277)
  constructor <;> intro h <;>
    simp [fDiv, not_nan_of_finite hx, not_inf_of_finite hx, not_nan_of_finite hyf, not_inf_of_finite hyf, hy, h]

/-! ### A NaN operand -/

/-- The condition under which every operation and comparison takes its NaN branch. -/
theorem fIsNaN_or_eq_true {x y : F32} (h : fIsNaN x = true ∨ fIsNaN y = true) : (fIsNaN x || fIsNaN y) = true := by
  simpa using h

theorem comparisons_of_nan {x y : F32} (h : fIsNaN x = true ∨ fIsNaN y = true) :
    fLt x y = false ∧ fLe x y = false ∧ fEq x y = false ∧ fNe x y = true := by
  rcases h with h | h <;> simp [fLt, fLe, fEq, fNe, h]

theorem operations_of_nan {x y : F32} (h : fIsNaN x = true ∨ fIsNaN y = true) :
    fIsNaN (fAdd x y) = true ∧ fIsNaN (fSub x y) = true ∧ fIsNaN (fMul x y) = true ∧ fIsNaN (fDiv x y) = true := by
  simp only [fAdd, fSub, fMul, fDiv, fIsNaN_or_eq_true h, if_true, fIsNaN_fNaN, and_self]

/-! ### The statement -/

/-- The patterns that the statement writes are the infinities and the zeros. -/
theorem ite_eq_fInf (s : Bool) : (if s then (0xFF800000 : F32) else 0x7F800000) = fInf s := by cases s <;> rfl

theorem ite_eq_fZero (s : Bool) : (if s then (0x80000000 : F32) else 0) = fZero s := by cases s <;> rfl

/-- Settles O49. -/
theorem nanAndComparisons : Obligations.NanAndComparisons := by
  refine ⟨fun x hx => ?_, fun x y => ⟨fun h => ?_, fun hfx hfy =>
    ⟨fLt_iff_fValue hfx hfy, fLe_iff_fValue hfx hfy, fEq_iff_fValue hfx hfy, fNe_iff_fValue hfx hfy⟩⟩⟩
  · simp only [ite_eq_fInf, ite_eq_fZero]
    exact ⟨fLt_posInf_iff hx, negInf_fLt_iff hx, posInf_not_fLt hx, not_fLt_negInf hx,
      fun y hy => ⟨fLe_eq_not_fLt hx hy, fEq_eq_fLe_and_fLe hx hy, rfl⟩,
      fun s => ⟨fAdd_fInf hx, fAdd_opposite_fInf s, fSub_fInf hx, fSub_same_fInf s, fMul_fInf hx, fMul_zero_fInf hx,
        fDiv_fInf_finite, fun h => fDiv_fInf_fInf (isInf_of_not_finite hx h), fun y => fDiv_zero⟩⟩
  · obtain ⟨hlt, hle, heq, hne⟩ := comparisons_of_nan h
    exact ⟨hlt, hle, heq, hne, operations_of_nan h⟩

end Sys2Proof.Machine
end

-- Proofs of the family 10_state.md: the registers that READ_REG reads.
section
/-! READ_REG (10_state.md R40, R45; 47_system.md R266): a number has a value or none, and that alone decides what the command
does. The values of the registers below 0x80 are a table; those from 0x80 on are the voices. -/

namespace Sys2Proof.Machine

open Sys2Proof

/-- READ_REG of a register that has a value responds with it. -/
theorem exec_readReg_of_some {s : State} {n : BitVec 8} {w : Word} (h : registerValue s n.toNat = some w) :
    exec (.readReg 0 0 n) s = .next { s with responses := s.responses ++ [w] } := by
  rw [exec_readReg, readRegRule, h]
  rfl

/-- READ_REG of a register that has none responds 0 and records code 4. -/
theorem exec_readReg_of_none {s : State} {n : BitVec 8} (h : registerValue s n.toNat = none) :
    exec (.readReg 0 0 n) s = .next (State.record { s with responses := s.responses ++ [0] } .badRegister) := by
  rw [exec_readReg, readRegRule, h]
  rfl

theorem registerValue_low {n : Nat} (h : n < 0x80) (s : State) : registerValue s n = lowRegister s n :=
  if_neg (by omega)

/-- Register 0x80 + i is VOICE_i. -/
theorem registerValue_voice {s : State} {i : Nat} {v : Voice} (hi : i < s.cfg.maxVoices) (hv : s.voices[i]? = some v) :
    registerValue s (0x80 + i) = some (voiceWord v) := by
  rw [registerValue, if_pos (by omega), if_pos (by omega), Nat.add_sub_cancel_left, List.getD_eq_getElem?_getD, hv,
    Option.getD_some]

/-- Settles O12: each row of the table is a row of `lowRegister`. -/
theorem readRegisterMap : Obligations.ReadRegisterMap := by
  intro s
  refine ⟨fun r hr => exec_readReg_of_some ?_, fun i v hi h32 hv => exec_readReg_of_some ?_⟩
  · revert r
    simp only [List.forall_mem_cons]
    exact ⟨rfl, rfl, rfl, rfl, rfl, rfl, rfl, rfl, rfl, rfl, rfl, rfl, rfl, rfl, rfl, rfl, rfl, rfl, rfl, rfl, rfl, rfl,
      rfl, rfl, rfl, rfl, rfl, rfl, rfl, rfl, rfl, rfl, rfl, rfl, rfl, rfl, rfl, fun _ h => nomatch h⟩
  · rw [BitVec.toNat_ofNat, Nat.mod_eq_of_lt (by omega)]
    exact registerValue_voice hi hv

/-- The register numbers below 0x80 that 10_state.md R40 assigns. -/
def lowNumbers : List Nat :=
  [0x00, 0x01, 0x02, 0x03, 0x04, 0x05, 0x06, 0x07, 0x08, 0x09, 0x0A, 0x0B, 0x0C, 0x0D, 0x0E, 0x0F, 0x10, 0x11, 0x12, 0x20,
    0x21, 0x22, 0x23, 0x24, 0x30, 0x31, 0x32, 0x40, 0x41, 0x42, 0x43, 0x44, 0x50, 0x51, 0x52, 0x53, 0x54]

/-- A number of no row of the table has no value. -/
theorem lowRegister_eq_none {n : Nat} (h : n ∉ lowNumbers) (s : State) : lowRegister s n = none := by
  unfold lowRegister
  split
  case h_38 => rfl
  all_goals exact absurd (by decide) h

/-- Settles O13. -/
theorem unassignedRegister : Obligations.UnassignedRegister := by
  intro s n hlow hvoice
  refine exec_readReg_of_none ?_
  by_cases hn : 0x80 ≤ n.toNat
  · rw [registerValue, if_pos hn, if_neg fun h => hvoice ⟨hn, h⟩]
  · rw [registerValue_low (by omega)]
    refine lowRegister_eq_none (fun hmem => hlow ?_) s
    rw [← List.mem_map_of_injective (f := BitVec.toNat) fun _ _ => BitVec.eq_of_toNat_eq]
    exact hmem

end Sys2Proof.Machine
end

-- Proofs of the family 10_state.md: the layouts of the registers.
section
/-! The registers that READ_REG assembles (10_state.md R33, R40 to R43), field by field. Every one is a row of fields side by
side, so a field is found by leaving the ones to its right. -/

namespace Sys2Proof.Machine

open Sys2Proof

/-- A bit to the left of the rightmost field. -/
theorem getLsbD_append_of_le {n m i : Nat} {x : BitVec n} {y : BitVec m} (h : m ≤ i) :
    (x ++ y).getLsbD i = x.getLsbD (i - m) := by
  rw [BitVec.getLsbD_append, if_neg (not_lt.2 h)]

/-- A one-bit field. -/
theorem getLsbD_append_ofBool {n : Nat} (x : BitVec n) (b : Bool) : (x ++ BitVec.ofBool b).getLsbD 0 = b := by
  rw [BitVec.getLsbD_append, if_pos Nat.one_pos, BitVec.getLsbD_ofBool]
  simp

/-- A reserved bit. -/
theorem getLsbD_append_zero {n : Nat} (x : BitVec n) : (x ++ (0 : BitVec 1)).getLsbD 0 = false :=
  getLsbD_append_ofBool x false

theorem voiceWord_fields (v : Voice) :
    (voiceWord v).extractLsb' 0 7 = v.note ∧ (voiceWord v).extractLsb' 8 7 = v.velocity ∧
      (voiceWord v).extractLsb' 16 3 = envStateCode v.env.state ∧
      (voiceWord v).extractLsb' 20 3 = waveformCode v.waveform ∧ (voiceWord v).extractLsb' 23 9 = 0 := by
  unfold voiceWord
  refine ⟨?_, ?_, ?_, ?_, ?_⟩
  all_goals repeat rw [BitVec.extractLsb'_append_eq_of_le (by decide)]
  · exact BitVec.extractLsb'_append_eq_right
  · exact BitVec.extractLsb'_append_eq_right
  · exact BitVec.extractLsb'_append_eq_right
  · exact BitVec.extractLsb'_append_eq_right
  · rfl

theorem voiceWord_bits (v : Voice) :
    (voiceWord v).getLsbD 7 = false ∧ (voiceWord v).getLsbD 15 = v.active ∧ (voiceWord v).getLsbD 19 = false := by
  unfold voiceWord
  refine ⟨?_, ?_, ?_⟩
  all_goals repeat rw [getLsbD_append_of_le (by decide)]
  · exact getLsbD_append_zero _
  · exact getLsbD_append_ofBool _ _
  · exact getLsbD_append_zero _

theorem enablesWord_bits (x : Settings) :
    (enablesWord x).getLsbD 0 = x.lfoEnable ∧ (enablesWord x).getLsbD 1 = x.lfoVibrato ∧
    (enablesWord x).getLsbD 2 = x.lfoTremolo ∧ (enablesWord x).getLsbD 3 = x.filterEnable ∧
    (enablesWord x).getLsbD 4 = x.eqEnable ∧ (enablesWord x).getLsbD 5 = x.reverbEnable ∧
    (enablesWord x).getLsbD 6 = x.delayEnable := by
  unfold enablesWord
  refine ⟨?_, ?_, ?_, ?_, ?_, ?_, ?_⟩
  all_goals
    repeat rw [getLsbD_append_of_le (by decide)]
    exact getLsbD_append_ofBool _ _

theorem enablesWord_reserved (x : Settings) : (enablesWord x).extractLsb' 7 25 = 0 := by
  unfold enablesWord
  repeat rw [BitVec.extractLsb'_append_eq_of_le (by decide)]
  rfl

theorem statusWord_fields (st : Status) (halted : Bool) :
    (statusWord st halted).extractLsb' 0 7 = st.sticky ∧ (statusWord st halted).extractLsb' 8 8 = st.lastCode ∧
      (statusWord st halted).extractLsb' 17 15 = 0 := by
  unfold statusWord
  refine ⟨?_, ?_, ?_⟩
  all_goals repeat rw [BitVec.extractLsb'_append_eq_of_le (by decide)]
  · exact BitVec.extractLsb'_append_eq_right
  · exact BitVec.extractLsb'_append_eq_right
  · rfl

theorem statusWord_bits (st : Status) (halted : Bool) :
    (statusWord st halted).getLsbD 7 = false ∧ (statusWord st halted).getLsbD 16 = halted := by
  unfold statusWord
  refine ⟨?_, ?_⟩
  all_goals repeat rw [getLsbD_append_of_le (by decide)]
  · exact getLsbD_append_zero _
  · exact getLsbD_append_ofBool _ _

/-- The codes of 10_state.md R26 as numbers. -/
theorem envStateCode_toNat (e : EnvState) :
    (envStateCode e).toNat = match e with | .off => 0 | .attack => 1 | .decay => 2 | .sustain => 3 | .release => 4 := by
  cases e <;> rfl

/-- The codes of 10_state.md R38 as numbers. -/
theorem waveformCode_toNat (w : Waveform) :
    (waveformCode w).toNat = match w with | .sine => 0 | .square => 1 | .sawtooth => 2 | .triangle => 3 | .noise => 4 := by
  cases w <;> rfl

theorem configWord_fields (cfg : Config) :
    (configWord cfg).extractLsb' 0 6 = BitVec.ofNat 6 cfg.maxVoices ∧ (configWord cfg).extractLsb' 6 2 = 0 ∧
      (configWord cfg).extractLsb' 18 14 = 0 := by
  unfold configWord
  refine ⟨?_, ?_, ?_⟩
  all_goals repeat rw [BitVec.extractLsb'_append_eq_of_le (by decide)]
  · exact BitVec.extractLsb'_append_eq_right
  · exact BitVec.extractLsb'_append_eq_right
  · rfl

theorem configWord_bits (cfg : Config) :
    (configWord cfg).getLsbD 8 = (cfg.backend == .analogMono) ∧ (configWord cfg).getLsbD 9 = (cfg.phaseRepr == .q16) ∧
    (configWord cfg).getLsbD 10 = (cfg.sineMode == .direct) ∧ (configWord cfg).getLsbD 11 = (cfg.envArith == .integer) ∧
    (configWord cfg).getLsbD 12 = (cfg.lfsrForm == .fibonacci) ∧
    (configWord cfg).getLsbD 13 = (cfg.noiseReduce == .high16) ∧ (configWord cfg).getLsbD 14 = cfg.lfsrReseedOnNoteOn ∧
    (configWord cfg).getLsbD 15 = (cfg.waveformLatch == .live) ∧
    (configWord cfg).getLsbD 16 = (cfg.lfoCallsPerSample == .two) ∧
    (configWord cfg).getLsbD 17 = (cfg.reverbLenMode == .scaled) := by
  unfold configWord
  refine ⟨?_, ?_, ?_, ?_, ?_, ?_, ?_, ?_, ?_, ?_⟩
  all_goals
    repeat rw [getLsbD_append_of_le (by decide)]
    exact getLsbD_append_ofBool _ _

/-- Bit i of the number of active voices is voice i's. -/
theorem activeBits_testBit (vs : List Voice) (i : Nat) : (activeBits vs).testBit i = (vs.getD i idleVoice).active := by
  induction vs generalizing i with
  | nil => simp [activeBits, idleVoice]
  | cons v vs ih =>
    cases i with
    | zero => cases h : v.active <;> simp [activeBits, h, Nat.testBit_zero, Nat.add_mod]
    | succ i =>
      have hhalf : activeBits (v :: vs) / 2 = activeBits vs := by
        rw [activeBits]
        split <;> omega
      rw [Nat.testBit_succ, hhalf, ih, List.getD_cons_succ]

/-- Bit i of VOICE_ACTIVE, for every i. -/
theorem voiceActiveWord_bit {maxVoices : Nat} (h : maxVoices ≤ 32) (voices : List Voice) (i : Nat) :
    (voiceActiveWord maxVoices voices).getLsbD i = (decide (i < maxVoices) && (voices.getD i idleVoice).active) := by
  rw [voiceActiveWord, BitVec.getLsbD_ofNat, activeBits_testBit, List.getD_eq_getElem?_getD, List.getElem?_take,
    List.getD_eq_getElem?_getD]
  by_cases hi : i < maxVoices
  · have : i < 32 := by omega
    simp [hi, this]
  · simp [hi, idleVoice]

/-- Settles O14. -/
theorem registerLayouts : Obligations.RegisterLayouts := by
  refine ⟨⟨fun v => ?_, fun x => ?_⟩, ⟨fun st halted => ?_, fun cfg h => ?_⟩,
    fun maxVoices voices i h => voiceActiveWord_bit h voices i⟩
  · obtain ⟨note, velocity, state, waveform, high⟩ := voiceWord_fields v
    obtain ⟨bit7, active, bit19⟩ := voiceWord_bits v
    exact ⟨note, bit7, velocity, active, by rw [state]; exact envStateCode_toNat _, bit19,
      by rw [waveform]; exact waveformCode_toNat _, high⟩
  · obtain ⟨lfo, vibrato, tremolo, filter, eq, reverb, delay⟩ := enablesWord_bits x
    exact ⟨lfo, vibrato, tremolo, filter, eq, reverb, delay, enablesWord_reserved x⟩
  · obtain ⟨sticky, lastCode, high⟩ := statusWord_fields st halted
    obtain ⟨bit7, bit16⟩ := statusWord_bits st halted
    exact ⟨sticky, bit7, lastCode, bit16, high⟩
  · obtain ⟨maxVoices, low, high⟩ := configWord_fields cfg
    obtain ⟨backend, phaseRepr, sineMode, envArith, lfsrForm, noiseReduce, reseed, latch, calls, lenMode⟩ :=
      configWord_bits cfg
    rw [backend, phaseRepr, sineMode, envArith, lfsrForm, noiseReduce, latch, calls, lenMode, maxVoices,
      BitVec.toNat_ofNat, Nat.mod_eq_of_lt (by omega)]
    exact ⟨rfl, low, beq_iff_eq, beq_iff_eq, beq_iff_eq, beq_iff_eq, beq_iff_eq, beq_iff_eq, reseed, beq_iff_eq,
      beq_iff_eq, beq_iff_eq, high⟩

end Sys2Proof.Machine
end

-- Proofs of the family 10_state.md: what a command advances, the halted state and STATUS.
section
/-! What a command does to the streams, the counter and the LFO's phase (10_state.md R21, R37), to the halted state (R34) and to
STATUS (R33): records codes one after the other, or clears all. -/

namespace Sys2Proof.Machine

open Sys2Proof

/-! ### The streams, the counter and the phase -/

theorem isTick_iff (i : Instr) : isTick i ↔ ∃ a b c, i = .tick a b c := by
  cases i <;> simp [isTick]

/-- Settles O59: a rejected command changes STATUS alone, a rule other than TICK's keeps the frame, and TICK's rule appends one
frame. -/
theorem onlyTickAdvances : Obligations.OnlyTickAdvances := by
  intro i s t h
  rcases exec_cases h with ⟨code, _, rfl⟩ | ⟨_, _, ⟨hi, ht⟩ | ⟨hi, rfl⟩⟩
  · exact ⟨rfl, rfl, rfl, .inl rfl, .inl rfl, fun _ => ⟨rfl, rfl, rfl⟩, fun _ => ⟨rfl, rfl⟩⟩
  · obtain ⟨a, b, c, rfl⟩ := (isTick_iff i).1 hi
    obtain ⟨svf, eq, p, p', m, rfl, _⟩ := tickRule_next ht
    refine ⟨rfl, rfl, rfl, .inr ⟨⟨a, b, c, rfl⟩, _, rfl⟩, .inl rfl, fun h => absurd rfl (h a b c), fun h => ?_⟩
    exact absurd h (by simp)
  · have frame := ruleOf_frame i s
    exact ⟨frame.cfg, frame.port, frame.pending, .inl frame.frames, ruleOf_responses i s,
      fun _ => ⟨frame.sampleCount, frame.lfoPhase, frame.frames⟩, fun _ => ⟨frame.sampleCount, frame.lfoPhase⟩⟩

/-! ### The halted state -/

theorem sampleRateRule_halted (rate : Word) (s : State) : (sampleRateRule rate s).halted = s.halted := by
  unfold sampleRateRule
  dsimp only
  split <;> simp

theorem readRegRule_halted (n : BitVec 8) (s : State) : (readRegRule n s).halted = s.halted := by
  unfold readRegRule
  split <;> rfl

/-- Only SHUTDOWN's rule changes the halted state. -/
theorem ruleOf_halted {i : Instr} (hi : ∀ a b c, i ≠ .shutdown a b c) (s : State) : (ruleOf i s).halted = s.halted := by
  cases i
  case shutdown a b c => exact absurd rfl (hi a b c)
  case setSampleRate => exact sampleRateRule_halted _ s
  case readReg => exact readRegRule_halted _ s
  case setFilterEnable | setEqEnable | setReverbEnable | setDelayEnable =>
    simp only [ruleOf, filterEnableRule, eqEnableRule, reverbEnableRule, delayEnableRule]
    split_ifs <;> rfl
  all_goals rfl

/-- No command leaves the halted state. -/
theorem exec_halted {i : Instr} {s t : State} (h : exec i s = .next t) (hs : s.halted = true) : t.halted = true := by
  rcases exec_cases h with ⟨code, _, rfl⟩ | ⟨_, _, ⟨_, ht⟩ | ⟨_, rfl⟩⟩
  · exact hs
  · obtain ⟨svf, eq, p, p', m, rfl, _⟩ := tickRule_next ht
    exact hs
  · by_cases hi : ∃ a b c, i = .shutdown a b c
    · obtain ⟨a, b, c, rfl⟩ := hi
      rfl
    · rw [ruleOf_halted (fun a b c he => hi ⟨a, b, c, he⟩), hs]

/-! ### STATUS -/

/-- One STATUS comes from another by recording codes, any number of them. -/
def Recorded : Status → Status → Prop := Relation.ReflTransGen fun st st' => ∃ code, st' = recordCode code st

theorem Recorded.refl (st : Status) : Recorded st st := Relation.ReflTransGen.refl

theorem Recorded.trans {st st' st'' : Status} (h : Recorded st st') (h' : Recorded st' st'') : Recorded st st'' :=
  Relation.ReflTransGen.trans h h'

theorem Recorded.one (code : Code) (st : Status) : Recorded st (recordCode code st) := .single ⟨code, rfl⟩

/-- What holds of a STATUS and is kept by recording a code holds after any number of codes. -/
theorem Recorded.keeps {P : Status → Prop} (hP : ∀ code st, P st → P (recordCode code st)) {st st' : Status}
    (h : Recorded st st') (hst : P st) : P st' := by
  induction h with
  | refl => exact hst
  | tail _ hlast ih =>
    obtain ⟨code, rfl⟩ := hlast
    exact hP code _ ih

/-- Recording keeps every sticky bit. -/
theorem Recorded.sticky {st st' : Status} (h : Recorded st st') {k : Nat} (hk : st.sticky.getLsbD k = true) :
    st'.sticky.getLsbD k = true :=
  h.keeps (P := fun st => st.sticky.getLsbD k = true) (fun code st hst => by simp [recordCode, hst]) hk

theorem settleAlloc_recorded (code : Code) (attempt : Option Pool) (p : Pool) (st : Status) :
    Recorded st (settleAlloc code attempt p st).status := by
  cases attempt with
  | none => exact .one code st
  | some _ => exact .refl st

theorem reverbAlloc_recorded (s : State) : Recorded s.status (reverbAlloc s).status := settleAlloc_recorded _ _ _ _

theorem delayAlloc_recorded (s : State) : Recorded s.status (delayAlloc s).status := settleAlloc_recorded _ _ _ _

theorem effectsRealloc_recorded (s : State) : Recorded s.status (effectsRealloc s).status := by
  rcases effectsRealloc_cases s with h | h | h | h <;> rw [h]
  · exact .refl _
  · exact reverbAlloc_recorded (reverbFree s)
  · exact delayAlloc_recorded (delayFree s)
  · exact (reverbAlloc_recorded (delayFree (reverbFree s))).trans (delayAlloc_recorded _)

/-- The settings and coefficients that SET_SAMPLE_RATE writes, before it reallocates the buffers (47_system.md R275). -/
def withRate (rate : Word) (s : State) : State :=
  let x := { s.settings with sampleRate := clampSampleRate s.cfg rate.toNat }
  (s.withSettings x).withDerived (rateDerived x s.derived)

theorem sampleRateRule_eq (rate : Word) (s : State) :
    sampleRateRule rate s =
      if clampSampleRate s.cfg rate.toNat = s.settings.sampleRate then withRate rate s
      else effectsRealloc (withRate rate s) := rfl

theorem sampleRateRule_recorded (rate : Word) (s : State) : Recorded s.status (sampleRateRule rate s).status := by
  rw [sampleRateRule_eq]
  split
  · exact .refl _
  · exact effectsRealloc_recorded (withRate rate s)

theorem readRegRule_recorded (n : BitVec 8) (s : State) : Recorded s.status (readRegRule n s).status := by
  unfold readRegRule
  split
  · exact .refl _
  · exact .one .badRegister _

theorem reverbEnableRule_recorded (on : Bool) (s : State) : Recorded s.status (reverbEnableRule on s).status := by
  unfold reverbEnableRule
  split_ifs
  · exact reverbAlloc_recorded s
  · exact .refl _
  · exact .refl _

theorem delayEnableRule_recorded (on : Bool) (s : State) : Recorded s.status (delayEnableRule on s).status := by
  unfold delayEnableRule
  split_ifs
  · exact delayAlloc_recorded s
  · exact .refl _
  · exact .refl _

@[simp] theorem shutdownRule_status (s : State) : (shutdownRule s).status = s.status := by
  unfold shutdownRule
  dsimp only
  split_ifs <;> rfl

/-- A rule clears STATUS or records codes in it. -/
theorem ruleOf_status (i : Instr) (s : State) :
    (ruleOf i s).status = clearedStatus ∨ Recorded s.status (ruleOf i s).status := by
  cases i
  case clearStatus => exact .inl rfl
  case setSampleRate => exact .inr (sampleRateRule_recorded _ s)
  case readReg => exact .inr (readRegRule_recorded _ s)
  case setReverbEnable => exact .inr (reverbEnableRule_recorded _ s)
  case setDelayEnable => exact .inr (delayEnableRule_recorded _ s)
  case shutdown =>
    right
    rw [ruleOf, shutdownRule_status]
    exact .refl _
  case setFilterEnable | setEqEnable =>
    right
    simp only [ruleOf, filterEnableRule, eqEnableRule]
    split_ifs <;> exact .refl _
  all_goals exact .inr (.refl _)

/-- A command clears STATUS or records codes in it. -/
theorem exec_status {i : Instr} {s t : State} (h : exec i s = .next t) :
    t.status = clearedStatus ∨ Recorded s.status t.status := by
  rcases exec_cases h with ⟨code, _, rfl⟩ | ⟨_, _, ⟨_, ht⟩ | ⟨_, rfl⟩⟩
  · exact .inr (.one code s.status)
  · obtain ⟨svf, eq, p, p', m, rfl, _⟩ := tickRule_next ht
    exact .inr (.refl _)
  · exact ruleOf_status i s

/-- A step without a reset keeps the halted state, and clears STATUS or records codes in it. -/
theorem step_halted_status {s t : State} (h : step s = .next t) (hreset : ∀ rest, s.port ≠ .reset :: rest) :
    (s.halted = true → t.halted = true) ∧ (t.status = clearedStatus ∨ Recorded s.status t.status) := by
  obtain ⟨_, ⟨_, rfl⟩ | ⟨rest, hp, _⟩ | ⟨agent, w, rest, _, ⟨_, rfl⟩ | ⟨i, _, hi⟩ | ⟨_, rfl⟩⟩⟩ := step_cases h
  · exact ⟨id, .inr (.refl _)⟩
  · exact absurd hp (hreset rest)
  · exact ⟨id, .inr (.refl _)⟩
  · exact ⟨exec_halted (s := takeWord agent w rest s) hi, exec_status (s := takeWord agent w rest s) hi⟩
  · exact ⟨id, .inr (.one .illegalOpcode _)⟩

/-- Settles O60. -/
theorem haltedAndStickyBitsStay : Obligations.HaltedAndStickyBitsStay := by
  intro s t h hreset
  obtain ⟨halted, status⟩ := step_halted_status h hreset
  exact ⟨halted, status.imp_right fun recorded _ => recorded.sticky⟩

end Sys2Proof.Machine
end

-- Proofs of the family 10_state.md: what a command does to a voice.
section
/-! What a command can do to one voice, said once: keep it, silence it, start a note, release a note or take a sample (42_voice.md
R144, R150, R168, R170). A property of single voices that these five keep is kept by every command. -/

namespace Sys2Proof.Machine

open Sys2Proof

/-- What a voice can become in one command. -/
inductive VoiceMove (cfg : Config) (u : Voice) : Voice → Prop
  | kept : VoiceMove cfg u u
  | silenced : VoiceMove cfg u (silenceVoice u)
  | started (waveform : Waveform) (rate : Word) (note velocity : BitVec 7) :
    VoiceMove cfg u (voiceNoteOn cfg waveform rate note velocity u)
  | released (note : BitVec 7) : VoiceMove cfg u (releaseNote note u)
  | sampled (setting : Waveform) (vib trem : F32) : VoiceMove cfg u (voiceTick cfg setting vib trem u).1

/-- Every voice of a bank comes from one of another. -/
def VoicesMoved (cfg : Config) (us vs : List Voice) : Prop := ∀ v ∈ vs, ∃ u ∈ us, VoiceMove cfg u v

theorem VoicesMoved.refl (cfg : Config) (us : List Voice) : VoicesMoved cfg us us := fun v hv => ⟨v, hv, .kept⟩

theorem VoicesMoved.of_eq {cfg : Config} {us vs : List Voice} (h : vs = us) : VoicesMoved cfg us vs := h ▸ .refl cfg us

/-- A function that moves every voice, applied to a bank. -/
theorem VoicesMoved.map {cfg : Config} {f : Voice → Voice} (hf : ∀ u, VoiceMove cfg u (f u)) (us : List Voice) :
    VoicesMoved cfg us (us.map f) := by
  intro v hv
  obtain ⟨u, hu, rfl⟩ := List.mem_map.1 hv
  exact ⟨u, hu, hf u⟩

/-- The voices below a count and those from it on, each moved. -/
theorem VoicesMoved.append {cfg : Config} {us vs ws : List Voice} (n : Nat) (hv : VoicesMoved cfg (us.take n) vs)
    (hw : VoicesMoved cfg (us.drop n) ws) : VoicesMoved cfg us (vs ++ ws) := by
  intro v hmem
  rcases List.mem_append.1 hmem with h | h
  · obtain ⟨u, hu, move⟩ := hv v h
    exact ⟨u, List.mem_of_mem_take hu, move⟩
  · obtain ⟨u, hu, move⟩ := hw v h
    exact ⟨u, List.mem_of_mem_drop hu, move⟩

/-- One voice of a bank moved. -/
theorem VoicesMoved.modify {cfg : Config} {f : Voice → Voice} (hf : ∀ u, VoiceMove cfg u (f u)) (us : List Voice) (k : Nat) :
    VoicesMoved cfg us (us.modify k f) := by
  intro v hv
  obtain ⟨j, hj⟩ := List.mem_iff_getElem?.1 hv
  rw [List.getElem?_modify] at hj
  obtain ⟨u, hu, rfl⟩ := Option.map_eq_some_iff.1 hj
  refine ⟨u, List.mem_of_getElem? hu, ?_⟩
  split
  · exact hf u
  · exact .kept

/-! ### The commands -/

theorem shutdownRule_voices (s : State) : (shutdownRule s).voices = s.voices.map silenceVoice := by
  unfold shutdownRule
  dsimp only
  split_ifs <;> rfl

theorem sampleRateRule_voices (rate : Word) (s : State) : (sampleRateRule rate s).voices = s.voices := by
  rw [sampleRateRule_eq]
  split
  · rfl
  · exact effectsRealloc_voices (withRate rate s)

theorem readRegRule_voices (n : BitVec 8) (s : State) : (readRegRule n s).voices = s.voices := by
  unfold readRegRule
  split <;> rfl

theorem ruleOf_voices (i : Instr) (s : State) : VoicesMoved s.cfg s.voices (ruleOf i s).voices := by
  cases i
  case noteOn => exact .modify (fun u => .started _ _ _ _) _ _
  case noteOff => exact .append _ (.map (fun u => .released _) _) (.refl _ _)
  case allOff => exact .map (fun u => .silenced) _
  case setVoiceCount => exact .append _ (.refl _ _) (.map (fun u => .silenced) _)
  case shutdown =>
    rw [ruleOf, shutdownRule_voices]
    exact .map (fun u => .silenced) _
  case setSampleRate => exact .of_eq (sampleRateRule_voices _ s)
  case readReg => exact .of_eq (readRegRule_voices _ s)
  case setFilterEnable | setEqEnable | setReverbEnable | setDelayEnable =>
    simp only [ruleOf, filterEnableRule, eqEnableRule, reverbEnableRule, delayEnableRule]
    split_ifs <;> exact .refl _ _
  all_goals exact .refl _ _

/-- The voices after a TICK: those below VOICE_COUNT take a sample, the others stay. -/
theorem tickVoices_voices (s : State) :
    ∃ vib trem, (tickVoices s).2.voices =
      (s.voices.take s.settings.voiceCount.toNat).map (fun u => (voiceTick s.cfg s.settings.waveform vib trem u).1)
        ++ s.voices.drop s.settings.voiceCount.toNat := by
  let lfo := lfoStep s.cfg s.settings s.derived.lfoInc s.lfoPhase
  refine ⟨lfo.vib, lfo.trem, ?_⟩
  simp only [tickVoices, tickedVoices, withVoices_voices, List.map_map]
  rfl

theorem tickVoices_moved (s : State) : VoicesMoved s.cfg s.voices (tickVoices s).2.voices := by
  obtain ⟨vib, trem, h⟩ := tickVoices_voices s
  rw [h]
  exact .append _ (.map (fun u => .sampled _ vib trem) _) (.refl _ _)

/-- What a command can do to the voices. -/
theorem exec_voices {i : Instr} {s t : State} (h : exec i s = .next t) : VoicesMoved s.cfg s.voices t.voices := by
  rcases exec_cases h with ⟨code, _, rfl⟩ | ⟨_, _, ⟨_, ht⟩ | ⟨_, rfl⟩⟩
  · exact .refl _ _
  · obtain ⟨svf, eq, p, p', m, rfl, _⟩ := tickRule_next ht
    exact tickVoices_moved s
  · exact ruleOf_voices i s

/-! ### Active exactly when not OFF -/

theorem voiceConsistent_iff (v : Voice) : voiceConsistent v = true ↔ (v.active = true ↔ v.env.state ≠ .off) := by
  rw [voiceConsistent, beq_iff_eq, Bool.eq_iff_iff, bne_iff_ne]

/-- What a TICK does to a voice: nothing to one that is off, the end of the note when the envelope ends, else the next sample. -/
theorem voiceTick_cases (cfg : Config) (setting : Waveform) (vib trem : F32) (u : Voice) :
    (u.active = false ∧ (voiceTick cfg setting vib trem u).1 = u) ∨
      u.active = true ∧
        ((envGet cfg u.env).2.state = .off ∧
            (voiceTick cfg setting vib trem u).1 = { u with active := false, env := (envGet cfg u.env).2 } ∨
          (envGet cfg u.env).2.state ≠ .off ∧ ∃ waveform inc lfsr, (voiceTick cfg setting vib trem u).1 =
            { u with waveform := waveform, phase := advancePhase cfg u.phase inc, lfsr := lfsr,
                     env := (envGet cfg u.env).2 }) := by
  cases hu : u.active with
  | false => exact .inl ⟨rfl, by simp [voiceTick, hu]⟩
  | true =>
    refine .inr ⟨rfl, ?_⟩
    by_cases he : (envGet cfg u.env).2.state = .off
    · exact .inl ⟨he, by simp [voiceTick, voiceGetSample, hu, he]⟩
    · refine .inr ⟨he, latchedWaveform cfg setting u, modulatedIncrement cfg u.inc vib,
        (rawSample cfg (latchedWaveform cfg setting u) u.lfsr (wavePhase cfg u.phase)).2, ?_⟩
      simp [voiceTick, voiceGetSample, hu, he]

/-- 10_state.md R27 is kept by whatever happens to a voice. -/
theorem VoiceMove.consistent {cfg : Config} {u v : Voice} (h : VoiceMove cfg u v) (hu : voiceConsistent u = true) :
    voiceConsistent v = true := by
  rw [voiceConsistent_iff] at hu ⊢
  cases h with
  | kept => exact hu
  | silenced => simp [silenceVoice]
  | started => simp [voiceNoteOn, envNoteOn]
  | released n =>
    unfold releaseNote envNoteOff
    split_ifs with hn hoff <;> simp_all
  | sampled setting vib trem =>
    rcases voiceTick_cases cfg setting vib trem u with ⟨_, h⟩ | ⟨ha, ⟨he, h⟩ | ⟨he, _, _, _, h⟩⟩ <;> rw [h]
    · exact hu
    · simp [he]
    · simp [ha, he]

theorem voicesConsistent_iff (s : State) : voicesConsistent s = true ↔ ∀ v ∈ s.voices, voiceConsistent v = true :=
  List.all_eq_true

/-- A command keeps every voice consistent. -/
theorem exec_consistent {i : Instr} {s t : State} (h : exec i s = .next t) (hs : voicesConsistent s = true) :
    voicesConsistent t = true := by
  rw [voicesConsistent_iff] at hs ⊢
  intro v hv
  obtain ⟨u, hu, move⟩ := exec_voices h v hv
  exact move.consistent (hs u hu)

theorem resetOf_consistent (cfg : Config) : voicesConsistent (State.resetOf cfg) = true := by
  rw [voicesConsistent_iff]
  intro v hv
  rw [List.eq_of_mem_replicate hv]
  rfl

/-- Settles O55. -/
theorem activeExactlyWhenNotOff : Obligations.ActiveExactlyWhenNotOff := by
  refine ⟨resetOf_consistent, fun s t hs h => ?_⟩
  obtain ⟨_, ⟨_, rfl⟩ | ⟨rest, _, rfl⟩ | ⟨agent, w, rest, _, ⟨_, rfl⟩ | ⟨i, _, hi⟩ | ⟨_, rfl⟩⟩⟩ := step_cases h
  · exact hs
  · exact resetOf_consistent s.cfg
  · exact hs
  · exact exec_consistent (s := takeWord agent w rest s) hi hs
  · exact hs

end Sys2Proof.Machine
end

-- Proofs of the family 10_state.md: the legal ranges of the settings.
section
/-! The settings in their legal ranges (10_state.md R22): every clamp gives a value in its range, for every operand that is no
NaN. -/

namespace Sys2Proof.Machine

open Sys2Proof

/-- The legal ranges of the settings, by name. -/
structure SettingsRange (cfg : Config) (x : Settings) : Prop where
  sampleRate : cfg.srMin ≤ x.sampleRate.toNat ∧ x.sampleRate.toNat ≤ cfg.srMax
  voiceCount : 1 ≤ x.voiceCount.toNat ∧ x.voiceCount.toNat ≤ cfg.maxVoices
  lfoRate : fInRange (fDecimal 1 10) x.lfoRate (fOfNat 20) = true
  lfoDepth : fInRange (fOfNat 0) x.lfoDepth (fOfNat 100) = true
  filterCutoff : fInRange (fOfNat 20) x.filterCutoff (fOfNat 20000) = true
  filterResonance : fInRange (fOfNat 0) x.filterResonance (fDecimal 99 100) = true
  eqBassGain : fInRange (fOfInt (-12)) x.eqBassGain (fOfNat 12) = true
  eqMidGain : fInRange (fOfInt (-12)) x.eqMidGain (fOfNat 12) = true
  eqTrebleGain : fInRange (fOfInt (-12)) x.eqTrebleGain (fOfNat 12) = true
  reverbRoomSize : fInRange (fOfNat 0) x.reverbRoomSize (fOfNat 1) = true
  reverbDamping : fInRange (fOfNat 0) x.reverbDamping (fOfNat 1) = true
  reverbWet : fInRange (fOfNat 0) x.reverbWet (fOfNat 1) = true
  delayTime : fInRange (fOfNat 10) x.delayTime (fOfNat 1000) = true
  delayFeedback : fInRange (fOfNat 0) x.delayFeedback (fOfNat 90) = true
  delayMix : fInRange (fOfNat 0) x.delayMix (fOfNat 100) = true

theorem settingsInRange_iff (cfg : Config) (x : Settings) : settingsInRange cfg x = true ↔ SettingsRange cfg x := by
  simp only [settingsInRange, Bool.and_eq_true, decide_eq_true_eq]
  constructor
  · rintro ⟨⟨⟨⟨⟨⟨⟨⟨⟨⟨⟨⟨⟨⟨rate, count⟩, lfoRate⟩, depth⟩, cutoff⟩, resonance⟩, bass⟩, mid⟩, treble⟩, roomSize⟩, damping⟩, wet⟩,
      time⟩, feedback⟩, mix⟩
    exact ⟨rate, count, lfoRate, depth, cutoff, resonance, bass, mid, treble, roomSize, damping, wet, time, feedback, mix⟩
  · rintro ⟨rate, count, lfoRate, depth, cutoff, resonance, bass, mid, treble, roomSize, damping, wet, time, feedback, mix⟩
    exact ⟨⟨⟨⟨⟨⟨⟨⟨⟨⟨⟨⟨⟨⟨rate, count⟩, lfoRate⟩, depth⟩, cutoff⟩, resonance⟩, bass⟩, mid⟩, treble⟩, roomSize⟩, damping⟩, wet⟩,
      time⟩, feedback⟩, mix⟩

/-! ### The clamps -/

/-- A value that is no NaN, clamped between bounds in their order, lies between them. -/
theorem clampF_inRange {v lo hi : F32} (hv : fIsNaN v = false) (hlo : fIsNaN lo = false) (hhi : fIsNaN hi = false)
    (h : fUnits lo ≤ fUnits hi) : fInRange lo (clampF v lo hi) hi = true := by
  refine fInRange_units.2 ?_
  by_cases below : fLt v lo = true
  · rw [clampF_of_lt hi below]
    exact ⟨hlo, hlo, hhi, le_rfl, h⟩
  · rw [Bool.not_eq_true] at below
    by_cases above : fLt hi v = true
    · rw [clampF_of_gt below above]
      exact ⟨hlo, hhi, hhi, h, le_rfl⟩
    · rw [Bool.not_eq_true] at above
      rw [clampF_of_between below above]
      simp only [fLt, hv, hlo, hhi, Bool.not_false, Bool.true_and, decide_eq_false_iff_not, not_lt] at below above
      exact ⟨hlo, hv, hhi, below, above⟩

/-- Clamping between two integers. -/
theorem clampF_fOfNat_inRange {v : F32} (hv : fIsNaN v = false) {a b : Nat} (hab : a ≤ b) (hb : b ≤ 2 ^ 24) :
    fInRange (fOfNat a) (clampF v (fOfNat a) (fOfNat b)) (fOfNat b) = true :=
  clampF_inRange hv (fOfNat_not_nan a) (fOfNat_not_nan b) (fUnits_fOfNat_le hb hab)

theorem fDecimal_not_nan (p q : Nat) : fIsNaN (fDecimal p q) = false := fIsNaN_fRound _ _ _

theorem fUnits_fDecimal_nonneg (p q : Nat) : 0 ≤ fUnits (fDecimal p q) := fUnits_nonneg (fSign_fDecimal p q)

/-- A decimal at most an integer rounds to at most it. -/
theorem fUnits_fDecimal_le {p q n : Nat} (hq : 0 < q) (hn : n ≤ 2 ^ 24) (h : p ≤ n * q) :
    fUnits (fDecimal p q) ≤ fUnits (fOfNat n) := by
  refine fRound_le hq (fOfNat_not_nan n) ?_
  rw [(fOfNat_units hn).1]
  simp only [signed, Bool.false_eq_true, if_false]
  calc ((p * fOneUnits : Nat) : Int) ≤ ((n * q * fOneUnits : Nat) : Int) :=
        Int.ofNat_le.2 (Nat.mul_le_mul_right _ h)
    _ = _ := by push_cast; ring

section

variable {v : F32} (hv : fIsNaN v = false)
include hv

theorem clampLfoRate_inRange : fInRange (fDecimal 1 10) (clampLfoRate v) (fOfNat 20) = true :=
  clampF_inRange hv (fDecimal_not_nan 1 10) (fOfNat_not_nan 20) (fUnits_fDecimal_le (by norm_num) (by norm_num) (by norm_num))

theorem clampLfoDepth_inRange : fInRange (fOfNat 0) (clampLfoDepth v) (fOfNat 100) = true :=
  clampF_fOfNat_inRange hv (by norm_num) (by norm_num)

theorem clampCutoff_inRange : fInRange (fOfNat 20) (clampCutoff v) (fOfNat 20000) = true :=
  clampF_fOfNat_inRange hv (by norm_num) (by norm_num)

theorem clampResonance_inRange : fInRange (fOfNat 0) (clampResonance v) (fDecimal 99 100) = true :=
  clampF_inRange hv (fOfNat_not_nan 0) (fDecimal_not_nan 99 100) (fUnits_zero.trans_le (fUnits_fDecimal_nonneg 99 100))

theorem clampGain_inRange : fInRange (fOfInt (-12)) (clampGain v) (fOfNat 12) = true := by
  refine clampF_inRange hv (fIsNaN_fOfInt _) (fOfNat_not_nan 12) ?_
  have hneg := fUnits_fOfInt_neg (n := 12) (by norm_num) (by norm_num)
  have hpos := fUnits_fOfNat_nonneg 12
  push_cast at hneg
  omega

theorem clampUnit_inRange : fInRange (fOfNat 0) (clampUnit v) (fOfNat 1) = true :=
  clampF_fOfNat_inRange hv (by norm_num) (by norm_num)

theorem clampDelayTime_inRange : fInRange (fOfNat 10) (clampDelayTime v) (fOfNat 1000) = true :=
  clampF_fOfNat_inRange hv (by norm_num) (by norm_num)

theorem clampFeedback_inRange : fInRange (fOfNat 0) (clampFeedback v) (fOfNat 90) = true :=
  clampF_fOfNat_inRange hv (by norm_num) (by norm_num)

theorem clampMix_inRange : fInRange (fOfNat 0) (clampMix v) (fOfNat 100) = true :=
  clampF_fOfNat_inRange hv (by norm_num) (by norm_num)

end

theorem clampNat_bounds (x : Nat) {lo hi : Nat} (h : lo ≤ hi) : lo ≤ clampNat x lo hi ∧ clampNat x lo hi ≤ hi := by
  unfold clampNat
  omega

theorem clampSampleRate_inRange {cfg : Config} (hc : isInstance cfg = true) (rate : Nat) :
    cfg.srMin ≤ (clampSampleRate cfg rate).toNat ∧ (clampSampleRate cfg rate).toNat ≤ cfg.srMax := by
  obtain ⟨_, ⟨_, hle, hmax⟩, _⟩ := (isInstance_iff cfg).1 hc
  have bounds := clampNat_bounds rate hle
  rw [clampSampleRate, BitVec.toNat_ofNat, Nat.mod_eq_of_lt (by omega)]
  exact bounds

theorem clampVoiceCount_inRange {cfg : Config} (hc : isInstance cfg = true) (count : Nat) :
    1 ≤ (clampVoiceCount cfg count).toNat ∧ (clampVoiceCount cfg count).toNat ≤ cfg.maxVoices := by
  obtain ⟨⟨hmin, hmax⟩, _⟩ := (isInstance_iff cfg).1 hc
  have bounds := clampNat_bounds count hmin
  rw [clampVoiceCount, BitVec.toNat_ofNat, Nat.mod_eq_of_lt (by omega)]
  exact bounds

/-- The settings at reset lie in their ranges. -/
theorem initialSettings_inRange {cfg : Config} (hc : isInstance cfg = true) : SettingsRange cfg (initialSettings cfg) := by
  obtain ⟨_, _, _, _, _, _, notNaN⟩ := (isInstance_iff cfg).1 hc
  simp only [List.forall_mem_cons] at notNaN
  obtain ⟨lfoRate, lfoDepth, cutoff, resonance, bass, mid, treble, roomSize, damping, wet, time, feedback, mix, _⟩ := notNaN
  exact {
    sampleRate := clampSampleRate_inRange hc _
    voiceCount := clampVoiceCount_inRange hc _
    lfoRate := clampLfoRate_inRange lfoRate
    lfoDepth := clampLfoDepth_inRange lfoDepth
    filterCutoff := clampCutoff_inRange cutoff
    filterResonance := clampResonance_inRange resonance
    eqBassGain := clampGain_inRange bass
    eqMidGain := clampGain_inRange mid
    eqTrebleGain := clampGain_inRange treble
    reverbRoomSize := clampUnit_inRange roomSize
    reverbDamping := clampUnit_inRange damping
    reverbWet := clampUnit_inRange wet
    delayTime := clampDelayTime_inRange time
    delayFeedback := clampFeedback_inRange feedback
    delayMix := clampMix_inRange mix }

end Sys2Proof.Machine
end

-- Proofs of the family 10_state.md: the LFO's phase.
section
/-! The LFO's phase stays in [0, 1) (10_state.md R28; 43_lfo.md R180, R181). The increment is at most 20 cycles, so the advanced
phase is at most 21. What is at least 1 is a whole number of steps of 2^-23, so subtracting its floor leaves at most 1 - 2^-23,
which is an F: the rounding of the difference does not reach 1. -/

namespace Sys2Proof.Machine

open Sys2Proof

theorem fUnits_one : fUnits (fOfNat 1) = fOneUnits := by
  rw [(fOfNat_units (by norm_num)).1, Nat.cast_one, one_mul]

theorem fInUnit_iff (x : F32) : fInUnit x = true ↔ fIsNaN x = false ∧ 0 ≤ fUnits x ∧ fUnits x < fOneUnits := by
  rw [fInUnit, Bool.and_eq_true, fLe_iff, fLt_iff, fUnits_zero, fUnits_one]
  simp only [fOfNat_not_nan, true_and]
  tauto

/-- A value in [0, 1) is finite. -/
theorem finite_of_inUnit {x : F32} (h : fInUnit x = true) : fIsFinite x = true := by
  obtain ⟨_, low, high⟩ := (fInUnit_iff x).1 h
  exact finite_of_between (fOfNat_finite (Nat.zero_le _)) (fOfNat_finite (n := 1) (by norm_num))
    (fUnits_zero.trans_le low) (high.le.trans fUnits_one.ge)

/-- A value of at least 1 is a whole number of steps of 2^-23. -/
theorem dvd_fUnits_of_one_le {x : F32} (h : (fOneUnits : Int) ≤ fUnits x) : ((2 ^ 126 : Nat) : Int) ∣ fUnits x := by
  obtain ⟨e, q, hp, he, hq⟩ := pattern_split (fBits x)
  have hmag : fUnits x = (q * 2 ^ e : Nat) := by
    have hpos : 0 < fUnits x := lt_of_lt_of_le (Int.natCast_pos.2 fOneUnits_pos) h
    rw [fUnits_eq, fSign_of_fUnits_pos hpos, fMagnitude_eq, hp, patternUnits_of he hq.le]
    rfl
  rw [hmag] at h ⊢
  refine Int.natCast_dvd_natCast.2 (Dvd.dvd.mul_left (pow_dvd_pow 2 ?_) q)
  -- below the exponent 126 a significand of 24 bits does not reach 1
  by_contra hlt
  have hlow : q * 2 ^ e < 2 ^ 24 * 2 ^ 125 :=
    lt_of_lt_of_le (Nat.mul_lt_mul_of_pos_right hq (Nat.two_pow_pos e))
      (Nat.mul_le_mul_left _ (Nat.pow_le_pow_right two_pos (by omega)))
  have hhigh : fOneUnits ≤ q * 2 ^ e := Int.ofNat_le.1 h
  unfold fOneUnits at hhigh
  omega

/-- The greatest step of 2^-23 below 1. -/
theorem fUnits_below_one : fUnits 0x3F7FFFFE = ((2 ^ 149 - 2 ^ 126 : Nat) : Int) := by decide

/-- Of a whole number of steps, what is left above the floor is at most that. -/
theorem emod_fOneUnits_le {u : Int} (h : ((2 ^ 126 : Nat) : Int) ∣ u) : u % fOneUnits ≤ fUnits 0x3F7FFFFE := by
  obtain ⟨m, rfl⟩ := h
  rw [fUnits_below_one, fOneUnits]
  norm_num
  omega

/-- The difference of an F and its floor, for one from 1 to 2^24. -/
theorem fSub_floor_inUnit {x : F32} (hfin : fIsFinite x = true) (hone : (fOneUnits : Int) ≤ fUnits x)
    (hhigh : fUnits x ≤ fUnits (fOfNat (2 ^ 24))) : fInUnit (fSub x (fOfInt (fFloor x))) = true := by
  have hU : (0 : Int) < fOneUnits := Int.natCast_pos.2 fOneUnits_pos
  obtain ⟨k, hk⟩ := Int.eq_ofNat_of_zero_le (Int.ediv_nonneg (hU.le.trans hone) hU.le)
  have hk24 : k ≤ 2 ^ 24 := by
    rw [(fOfNat_units le_rfl).1] at hhigh
    have := Int.ediv_le_of_le_mul hU hhigh
    omega
  have hfloor : fOfInt (fFloor x) = fOfNat k := by rw [fFloor, if_pos hfin, hk, fOfInt_natCast]
  have hdiff : fUnits x - fUnits (fOfNat k) = fUnits x % fOneUnits := by
    rw [(fOfNat_units hk24).1, Int.emod_def, hk, mul_comm]
  have hle := fSub_le hfin (fOfNat_finite hk24) (by decide)
    (hdiff.trans_le (emod_fOneUnits_le (dvd_fUnits_of_one_le hone)))
  have hge := le_fSub hfin (fOfNat_finite hk24) (fOfNat_not_nan 0)
    ((fUnits_zero.trans_le (Int.emod_nonneg _ hU.ne')).trans hdiff.ge)
  have hbelow : fUnits 0x3F7FFFFE < fOneUnits := by rw [fUnits_below_one, fOneUnits]; norm_num
  rw [hfloor, fInUnit_iff]
  refine ⟨?_, fUnits_zero.symm.trans_le hge, hle.trans_lt hbelow⟩
  rw [fSub_finite hfin (fOfNat_finite hk24)]
  exact fIsNaN_fRound _ _ _

/-- Wrapping a value from 0 to 2^24 gives one in [0, 1). -/
theorem wrapUnit_inUnit {x : F32} (hfin : fIsFinite x = true) (hlow : 0 ≤ fUnits x)
    (hhigh : fUnits x ≤ fUnits (fOfNat (2 ^ 24))) : fInUnit (wrapUnit x) = true := by
  have hone : fLe (fOfNat 1) x = true ↔ (fOneUnits : Int) ≤ fUnits x := by
    rw [fLe_iff, fUnits_one]
    simp [fOfNat_not_nan, not_nan_of_finite hfin]
  unfold wrapUnit
  split_ifs with h
  · exact fSub_floor_inUnit hfin (hone.1 h) hhigh
  · exact (fInUnit_iff x).2 ⟨not_nan_of_finite hfin, hlow, not_le.1 (mt hone.2 h)⟩

/-- The increment of an LFO whose rate lies in its range: finite, from 0 to 20 (43_lfo.md R180). -/
theorem lfoIncOf_bounds {rate : F32} {sampleRate : Word} (hrate : fInRange (fDecimal 1 10) rate (fOfNat 20) = true)
    (h1 : 1 ≤ sampleRate.toNat) (h24 : sampleRate.toNat ≤ 2 ^ 24) :
    fIsFinite (lfoIncOf rate sampleRate) = true ∧ 0 ≤ fUnits (lfoIncOf rate sampleRate) ∧
      fUnits (lfoIncOf rate sampleRate) ≤ fUnits (fOfNat 20) := by
  obtain ⟨_, _, _, low, high⟩ := fInRange_units.1 hrate
  have hnonneg := (fUnits_fDecimal_nonneg 1 10).trans low
  have hzero : fIsFinite (fOfNat 0) = true := fOfNat_finite (Nat.zero_le _)
  have htwenty : fIsFinite (fOfNat 20) = true := fOfNat_finite (by norm_num)
  have hfin : fIsFinite rate = true := finite_of_between hzero htwenty (fUnits_zero.trans_le hnonneg) high
  have hsr : fIsFinite (fOfNat sampleRate.toNat) = true := fOfNat_finite h24
  have hpos : 0 < fUnits (fOfNat sampleRate.toNat) := fUnits_fOfNat_pos h1 h24
  have hle : fUnits (lfoIncOf rate sampleRate) ≤ fUnits (fOfNat 20) := by
    refine fDiv_le hfin hsr (fOfNat_not_nan 20) hpos ?_
    refine mul_le_mul high ?_ (Int.natCast_nonneg _) (fUnits_fOfNat_nonneg 20)
    rw [← fUnits_one]
    exact fUnits_fOfNat_le h24 h1
  have hge : fUnits (fOfNat 0) ≤ fUnits (lfoIncOf rate sampleRate) := by
    refine le_fDiv hfin hsr (fOfNat_not_nan 0) hpos ?_
    rw [fUnits_zero, zero_mul]
    exact mul_nonneg hnonneg (Int.natCast_nonneg _)
  exact ⟨finite_of_between hzero htwenty hge hle, fUnits_zero.symm.trans_le hge, hle⟩

/-- One call of the LFO keeps its phase in [0, 1). -/
theorem lfoGetSine_inUnit {phase inc : F32} (hphase : fInUnit phase = true) (hinc : fIsFinite inc = true)
    (hlow : 0 ≤ fUnits inc) (hhigh : fUnits inc ≤ fUnits (fOfNat 20)) : fInUnit (lfoGetSine phase inc).2 = true := by
  obtain ⟨_, plow, phigh⟩ := (fInUnit_iff phase).1 hphase
  have hpf := finite_of_inUnit hphase
  have hzero : fIsFinite (fOfNat 0) = true := fOfNat_finite (Nat.zero_le _)
  have h21 : fIsFinite (fOfNat 21) = true := fOfNat_finite (by norm_num)
  have hge : fUnits (fOfNat 0) ≤ fUnits (fAdd phase inc) :=
    le_fAdd hpf hinc (fOfNat_not_nan 0) (fUnits_zero.trans_le (add_nonneg plow hlow))
  have hle : fUnits (fAdd phase inc) ≤ fUnits (fOfNat 21) := by
    refine fAdd_le hpf hinc (fOfNat_not_nan 21) ?_
    rw [(fOfNat_units (by norm_num)).1] at hhigh ⊢
    push_cast at hhigh ⊢
    omega
  exact wrapUnit_inUnit (finite_of_between hzero h21 hge hle) (fUnits_zero.symm.trans_le hge)
    (hle.trans (fUnits_fOfNat_le le_rfl (by norm_num)))

/-- What every call of the LFO keeps, a sample keeps: it makes none, one or two calls (43_lfo.md R182, R183). -/
theorem lfoStep_phase {P : F32 → Prop} {inc : F32} (hcall : ∀ phase, P phase → P (lfoGetSine phase inc).2) (cfg : Config)
    (x : Settings) {phase : F32} (hphase : P phase) : P (lfoStep cfg x inc phase).phase := by
  unfold lfoStep
  split_ifs
  · cases cfg.lfoCallsPerSample with
    | one => exact hcall phase hphase
    | two =>
      simp only [lfoTwoCalls]
      split_ifs
      · exact hcall _ (hcall _ hphase)
      · exact hcall _ hphase
      · exact hcall _ hphase
      · exact hphase
  · exact hphase

/-- A command keeps the LFO's phase in [0, 1) in every state with its settings in their ranges and its increment theirs. -/
theorem exec_lfoPhase {i : Instr} {s t : State} (hc : isInstance s.cfg = true) (hr : SettingsRange s.cfg s.settings)
    (hd : s.derived = deriveAll s.settings) (hphase : fInUnit s.lfoPhase = true) (h : exec i s = .next t) :
    fInUnit t.lfoPhase = true := by
  rcases exec_cases h with ⟨code, _, rfl⟩ | ⟨_, _, ⟨_, ht⟩ | ⟨_, rfl⟩⟩
  · exact hphase
  · obtain ⟨svf, eq, p, p', m, rfl, _⟩ := tickRule_next ht
    obtain ⟨_, ⟨hmin, _, hmax⟩, _⟩ := (isInstance_iff s.cfg).1 hc
    have hinc : s.derived.lfoInc = lfoIncOf s.settings.lfoRate s.settings.sampleRate := by rw [hd]; rfl
    obtain ⟨hfin, hlow, hhigh⟩ := lfoIncOf_bounds hr.lfoRate (hmin.trans hr.sampleRate.1) (hr.sampleRate.2.trans hmax)
    rw [← hinc] at hfin hlow hhigh
    exact lfoStep_phase (P := fun phase => fInUnit phase = true)
      (fun phase hp => lfoGetSine_inUnit hp hfin hlow hhigh) s.cfg s.settings hphase
  · rw [(ruleOf_frame i s).lfoPhase]
    exact hphase

/-- Settles O43. -/
theorem lfoPhaseStaysInUnit : Obligations.LfoPhaseStaysInUnit := by
  intro s t hs hphase h
  obtain ⟨_, ⟨_, rfl⟩ | ⟨rest, _, rfl⟩ | ⟨agent, w, rest, _, ⟨_, rfl⟩ | ⟨i, _, hi⟩ | ⟨_, rfl⟩⟩⟩ := step_cases h
  · exact hphase
  · exact (fInUnit_iff 0).2 ⟨rfl, le_rfl, Int.natCast_pos.2 fOneUnits_pos⟩
  · exact hphase
  · exact exec_lfoPhase (s := takeWord agent w rest s) hs.inst ((settingsInRange_iff _ _).1 hs.settings) hs.derived hphase hi
  · exact hphase

end Sys2Proof.Machine
end

-- Proofs of the family 10_state.md: the voice bank in the invariant.
section
/-! The voices as the invariant has them: each consistent (10_state.md R27), its envelope's counter inside its phase (41_envelope.md
R129 to R133), a Q16.16 phase inside its fraction bits (42_voice.md R146); and the bank (10_state.md R25; 47_system.md R278). -/

namespace Sys2Proof.Machine

open Sys2Proof

/-! ### One voice -/

/-- What the invariant says of one voice. -/
structure VoiceOk (cfg : Config) (v : Voice) : Prop where
  consistent : voiceConsistent v = true
  envelope : envInPhase cfg v.env = true
  phase : cfg.phaseRepr = .q16 → v.phase.toNat < 65536

theorem idleVoice_ok (cfg : Config) : VoiceOk cfg idleVoice := ⟨rfl, rfl, fun _ => by decide⟩

/-- Every phase of the envelope lasts at least one sample. -/
theorem samples_pos {cfg : Config} (hc : isInstance cfg = true) :
    0 < cfg.attackSamples ∧ 0 < cfg.decaySamples ∧ 0 < cfg.releaseSamples := by
  obtain ⟨_, _, samples, _⟩ := (isInstance_iff cfg).1 hc
  simp only [List.forall_mem_cons] at samples
  omega

/-- One call of the generator, while the envelope is not OFF, leaves the counter inside its phase. -/
theorem envGet_inPhase {cfg : Config} (hc : isInstance cfg = true) {e : Env} (he : e.state ≠ .off) :
    envInPhase cfg (envGet cfg e).2 = true := by
  obtain ⟨_, hdecay, _⟩ := samples_pos hc
  obtain ⟨state, counter⟩ := e
  unfold envGet
  cases state with dsimp only
  | off => exact absurd rfl he
  | attack =>
    split_ifs with hend
    · exact decide_eq_true hdecay
    · exact decide_eq_true (not_le.1 hend)
  | decay =>
    split_ifs with hend
    · rfl
    · exact decide_eq_true (not_le.1 hend)
  | sustain => rfl
  | release =>
    split_ifs with hend
    · rfl
    · exact decide_eq_true (not_lt.1 hend)

/-- A voice in the invariant stays in it, whatever happens to it. -/
theorem VoiceMove.ok {cfg : Config} {u v : Voice} (hc : isInstance cfg = true) (h : VoiceMove cfg u v) (hu : VoiceOk cfg u) :
    VoiceOk cfg v := by
  refine ⟨h.consistent hu.consistent, ?_, ?_⟩
  · cases h with
    | kept => exact hu.envelope
    | silenced => rfl
    | started => exact decide_eq_true (samples_pos hc).1
    | released n =>
      unfold releaseNote envNoteOff
      split_ifs
      · exact hu.envelope
      · exact decide_eq_true (Nat.zero_le cfg.releaseSamples)
      · exact hu.envelope
    | sampled setting vib trem =>
      have next : u.active = true → envInPhase cfg (envGet cfg u.env).2 = true := fun ha =>
        envGet_inPhase hc (((voiceConsistent_iff u).1 hu.consistent).1 ha)
      rcases voiceTick_cases cfg setting vib trem u with ⟨_, h⟩ | ⟨ha, ⟨_, h⟩ | ⟨_, _, _, _, h⟩⟩ <;> rw [h]
      · exact hu.envelope
      · exact next ha
      · exact next ha
  · intro hq
    cases h with
    | kept => exact hu.phase hq
    | silenced => exact hu.phase hq
    | started => exact (by decide : (0 : Word).toNat < 65536)
    | released n =>
      unfold releaseNote
      split_ifs <;> exact hu.phase hq
    | sampled setting vib trem =>
      rcases voiceTick_cases cfg setting vib trem u with ⟨_, h⟩ | ⟨_, ⟨_, h⟩ | ⟨_, _, inc, _, h⟩⟩ <;> rw [h]
      · exact hu.phase hq
      · exact hu.phase hq
      · simp only [advancePhase, hq, BitVec.toNat_ofNat]
        omega

/-! ### The bank -/

/-- What the invariant says of the bank: MAX_VOICES voices, none sounding from VOICE_COUNT on. -/
structure BankOk (cfg : Config) (count : Nat) (vs : List Voice) : Prop where
  length : vs.length = cfg.maxVoices
  voices : ∀ v ∈ vs, VoiceOk cfg v
  quiet : ∀ v ∈ vs.drop count, v.active = false

/-- A bank moved voice by voice that keeps its length and is quiet from the count on. -/
theorem BankOk.moved {cfg : Config} {count count' : Nat} {vs ws : List Voice} (hc : isInstance cfg = true)
    (h : BankOk cfg count vs) (hm : VoicesMoved cfg vs ws) (hl : ws.length = vs.length)
    (hq : ∀ v ∈ ws.drop count', v.active = false) : BankOk cfg count' ws := by
  refine ⟨hl.trans h.length, fun v hv => ?_, hq⟩
  obtain ⟨u, hu, move⟩ := hm v hv
  exact move.ok hc (h.voices u hu)

/-- The voices of a list with the first ones mapped, from the count on. -/
theorem drop_map_take_append {n : Nat} {vs ws : List Voice} (hn : n ≤ vs.length) (f : Voice → Voice) :
    ((vs.take n).map f ++ ws).drop n = ws :=
  List.drop_left' (by rw [List.length_map, List.length_take, Nat.min_eq_left hn])

theorem length_map_take_append_drop (n : Nat) (vs : List Voice) (f : Voice → Voice) :
    ((vs.take n).map f ++ vs.drop n).length = vs.length := by
  rw [List.length_append, List.length_map, ← List.length_append, List.take_append_drop]

/-- A bank with the voices below the count moved. -/
theorem BankOk.map_take {cfg : Config} {count : Nat} {vs : List Voice} (hc : isInstance cfg = true) (h : BankOk cfg count vs)
    (hn : count ≤ cfg.maxVoices) {f : Voice → Voice} (hf : ∀ u, VoiceMove cfg u (f u)) :
    BankOk cfg count ((vs.take count).map f ++ vs.drop count) := by
  refine h.moved hc (.append _ (.map hf _) (.refl _ _)) (length_map_take_append_drop _ _ _) ?_
  rw [drop_map_take_append (hn.trans h.length.ge)]
  exact h.quiet

/-- A silenced bank, for any count. -/
theorem BankOk.silenced {cfg : Config} {count : Nat} {vs : List Voice} (hc : isInstance cfg = true) (h : BankOk cfg count vs) :
    BankOk cfg count (vs.map silenceVoice) := by
  refine h.moved hc (.map (fun u => .silenced) _) (List.length_map _) (fun v hv => ?_)
  obtain ⟨u, _, rfl⟩ := List.mem_map.1 (List.mem_of_mem_drop hv)
  rfl

theorem findFreeVoice_lt {count : Nat} (h : 1 ≤ count) (vs : List Voice) : findFreeVoice count vs < count := by
  unfold findFreeVoice
  cases hf : (vs.take count).findIdx? fun v => !v.active with
  | none => exact h
  | some k =>
    obtain ⟨hk, _⟩ := List.findIdx?_eq_some_iff_getElem.1 hf
    exact hk.trans_le (List.length_take_le _ _)

/-- Starting a note in the voice that is free. -/
theorem BankOk.started {cfg : Config} {count : Nat} {vs : List Voice} (hc : isInstance cfg = true) (h : BankOk cfg count vs)
    (hn : 1 ≤ count) {f : Voice → Voice} (hf : ∀ u, VoiceMove cfg u (f u)) :
    BankOk cfg count (vs.modify (findFreeVoice count vs) f) := by
  refine h.moved hc (.modify hf _ _) (List.length_modify _ _ _) ?_
  rw [List.drop_modify_of_lt _ _ _ _ (findFreeVoice_lt hn vs)]
  exact h.quiet

/-- A new count, the voices from it on silenced. -/
theorem BankOk.recounted {cfg : Config} {count n : Nat} {vs : List Voice} (hc : isInstance cfg = true)
    (h : BankOk cfg count vs) (hn : n ≤ cfg.maxVoices) : BankOk cfg n (vs.take n ++ (vs.drop n).map silenceVoice) := by
  refine h.moved hc (.append _ (.refl _ _) (.map (fun u => .silenced) _)) ?_ ?_
  · rw [List.length_append, List.length_map, ← List.length_append, List.take_append_drop]
  · rw [List.drop_left' (by rw [List.length_take, Nat.min_eq_left (hn.trans h.length.ge)])]
    intro v hv
    obtain ⟨u, _, rfl⟩ := List.mem_map.1 hv
    rfl

theorem bankOk_replicate (cfg : Config) (count : Nat) : BankOk cfg count (List.replicate cfg.maxVoices idleVoice) where
  length := List.length_replicate
  voices := fun v hv => by
    rw [List.eq_of_mem_replicate hv]
    exact idleVoice_ok cfg
  quiet := fun v hv => by
    rw [List.eq_of_mem_replicate (List.mem_of_mem_drop hv)]
    rfl

end Sys2Proof.Machine
end

-- Proofs of the family 10_state.md: the buffers in the invariant.
section
/-! Buffer memory as the invariant has it (10_state.md R23, R31, R32, R36; 20_memory.md R72): first over the pool alone, where
allocating, freeing and one sample keep it, then with the enables. The word count of the delay is a parameter, because
SET_SAMPLE_RATE writes DELAY_N before it reallocates (47_system.md R275). -/

namespace Sys2Proof.Machine

open Sys2Proof

/-! ### The lengths of the reverb -/

theorem nominalLengths_pos : ∀ j : Fin 6, 0 < nominalLengths[j] := by decide

theorem reverbLengths_pos (cfg : Config) (rate : Word) (j : Nat) (hj : j < 6) : 0 < (reverbLengths cfg rate)[j] := by
  unfold reverbLengths
  cases cfg.reverbLenMode with
  | fixed => exact nominalLengths_pos ⟨j, hj⟩
  | scaled =>
    dsimp only
    rw [Vector.getElem_map]
    omega

theorem reverbLengths_le_sum (cfg : Config) (rate : Word) (j : Nat) (hj : j < 6) :
    (reverbLengths cfg rate)[j] ≤ (reverbLengths cfg rate).toList.sum := by
  have h := sum_take_add_le (reverbLengths cfg rate).toList j (by simpa using hj)
  rw [Vector.getElem_toList] at h
  omega

/-- Lengths that fit in 32 bits are held as they are. -/
theorem toNat_length_of_fit {cfg : Config} {rate : Word} (h : (reverbLengths cfg rate).toList.sum < 2 ^ 32) (j : Nat)
    (hj : j < 6) : (((reverbLengths cfg rate).map (BitVec.ofNat 32))[j]).toNat = (reverbLengths cfg rate)[j] := by
  rw [Vector.getElem_map, BitVec.toNat_ofNat, Nat.mod_eq_of_lt ((reverbLengths_le_sum cfg rate j hj).trans_lt h)]

/-- The sum of lengths that fit in 32 bits. -/
theorem sum_lengths_of_fit {cfg : Config} {rate : Word} (h : (reverbLengths cfg rate).toList.sum < 2 ^ 32) :
    (((reverbLengths cfg rate).map (BitVec.ofNat 32)).toList.map BitVec.toNat).sum
      = (reverbLengths cfg rate).toList.sum := by
  congr 1
  refine List.ext_getElem (by simp) fun j h1 h2 => ?_
  rw [List.getElem_map, Vector.getElem_toList, Vector.getElem_toList]
  exact toNat_length_of_fit h j (by simpa using h2)

theorem delayNOf_toNat (rate : Word) : (delayNOf rate).toNat = rate.toNat := by
  have := rate.isLt
  rw [delayNOf, maxDelayMs, Nat.mul_div_cancel _ (by norm_num), BitVec.toNat_ofNat, Nat.mod_eq_of_lt this]

/-! ### The pool -/

/-- What the invariant says of the pool, with n words in an allocated delay. -/
structure PoolOk (cfg : Config) (n : Word) (p : Pool) : Prop where
  total : p.free.toNat + reverbWords p + delayWords p = cfg.memWords
  reverb : p.rev.allocated = true → p.rev.base = 0 ∧ ∀ j : Fin 6, p.rev.idx[j].toNat < p.rev.len[j].toNat
  delay : p.dly.allocated = true →
    p.dly.base.toNat + p.dly.size.toNat = cfg.memWords ∧ p.dly.wp.toNat < p.dly.size.toNat ∧ p.dly.size = n
  mem : Memory.wf p.mem = true

/-- While the delay is not allocated any number of words will do. -/
theorem PoolOk.resized {cfg : Config} {n : Word} {p : Pool} (h : PoolOk cfg n p) (hd : p.dly.allocated = false) (n' : Word) :
    PoolOk cfg n' p :=
  ⟨h.total, h.reverb, fun ha => absurd ha (by simp [hd]), h.mem⟩

section

variable {cfg : Config} {n : Word} {p : Pool}

theorem emptyPool_ok (hmem : cfg.memWords < 2 ^ 32) (n : Word) : PoolOk cfg n (emptyPool cfg) where
  total := by
    simp only [emptyPool, reverbWords, delayWords, BitVec.toNat_ofNat, Nat.mod_eq_of_lt hmem]
    simp
  reverb := fun h => by cases h
  delay := fun h => by cases h
  mem := rfl

theorem freeReverb_ok (hmem : cfg.memWords < 2 ^ 32) (h : PoolOk cfg n p) (ha : p.rev.allocated = true) :
    PoolOk cfg n (freeReverb p) where
  total := by
    have total := h.total
    have hdelay : delayWords (freeReverb p) = delayWords p := rfl
    have hreverb : reverbWords (freeReverb p) = 0 := rfl
    rw [reverbWords, if_pos ha] at total
    rw [hdelay, hreverb, freeReverb, BitVec.toNat_add, BitVec.toNat_ofNat]
    omega
  reverb := fun h => by cases h
  delay := h.delay
  mem := h.mem

theorem freeDelay_ok (hmem : cfg.memWords < 2 ^ 32) (h : PoolOk cfg n p) (ha : p.dly.allocated = true) (n' : Word) :
    PoolOk cfg n' (freeDelay p) where
  total := by
    have total := h.total
    have hdelay : delayWords (freeDelay p) = 0 := rfl
    have hreverb : reverbWords (freeDelay p) = reverbWords p := rfl
    rw [delayWords, if_pos ha] at total
    rw [hdelay, hreverb, freeDelay, BitVec.toNat_add]
    omega
  reverb := h.reverb
  delay := fun h => by cases h
  mem := h.mem

/-- The reverb's allocation, where it fits. -/
theorem tryReverb_ok {rate : Word} {p' : Pool} (h : PoolOk cfg n p) (ha : p.rev.allocated = false)
    (ht : tryReverb cfg rate p = some p') : PoolOk cfg n p' ∧ p'.rev.allocated = true ∧ p'.dly = p.dly := by
  unfold tryReverb at ht
  simp only [Option.ite_none_left_eq_some, Option.some.injEq, not_lt] at ht
  obtain ⟨hfit, rfl⟩ := ht
  have total := h.total
  have hfree := p.free.isLt
  have hsum := sum_lengths_of_fit (cfg := cfg) (rate := rate) (by omega)
  refine ⟨⟨?_, fun _ => ⟨rfl, fun j => ?_⟩, h.delay, clearRegion_wf _ _ h.mem⟩, rfl, rfl⟩
  · rw [reverbWords, ha] at total
    simp only [delayWords, Bool.false_eq_true, if_false] at total
    simp only [reverbWords, reverbSize, if_true, hsum, delayWords]
    bv_omega
  · show ((Vector.replicate 6 (0 : Word))[(j : Nat)]).toNat < _
    rw [Vector.getElem_replicate]
    show 0 < (((reverbLengths cfg rate).map (BitVec.ofNat 32))[(j : Nat)]).toNat
    rw [toNat_length_of_fit (by omega) j j.isLt]
    exact reverbLengths_pos cfg rate j j.isLt

/-- The delay's allocation, where it fits. -/
theorem tryDelay_ok (hmem : cfg.memWords < 2 ^ 32) {p' : Pool} (h : PoolOk cfg n p) (ha : p.dly.allocated = false)
    (hn : 0 < n.toNat) (ht : tryDelay cfg n p = some p') : PoolOk cfg n p' ∧ p'.dly.allocated = true ∧ p'.rev = p.rev := by
  unfold tryDelay at ht
  simp only [Option.ite_none_left_eq_some, Option.some.injEq, not_lt] at ht
  obtain ⟨hfit, rfl⟩ := ht
  have total := h.total
  rw [delayWords, ha] at total
  simp only [Bool.false_eq_true, if_false] at total
  refine ⟨⟨?_, h.reverb, fun _ => ⟨?_, hn, rfl⟩, clearRegion_wf _ _ h.mem⟩, rfl, rfl⟩
  · simp only [delayWords, if_true]
    show (p.free - n).toNat + reverbWords p + n.toNat = cfg.memWords
    bv_omega
  · show (BitVec.ofNat 32 (cfg.memWords - n.toNat)).toNat + n.toNat = cfg.memWords
    rw [BitVec.toNat_ofNat, Nat.mod_eq_of_lt (by omega)]
    omega

/-- A request for the reverb's buffers, whether it fits or not. -/
theorem settleReverb_ok (h : PoolOk cfg n p) (ha : p.rev.allocated = false) (code : Code) (rate : Word) (st : Status) :
    PoolOk cfg n (settleAlloc code (tryReverb cfg rate p) p st).pool ∧
      (settleAlloc code (tryReverb cfg rate p) p st).pool.rev.allocated
        = (settleAlloc code (tryReverb cfg rate p) p st).enabled ∧
      (settleAlloc code (tryReverb cfg rate p) p st).pool.dly = p.dly := by
  cases ht : tryReverb cfg rate p with
  | none => exact ⟨h, ha, rfl⟩
  | some p' => exact tryReverb_ok h ha ht

/-- A request for the delay's buffer, whether it fits or not. -/
theorem settleDelay_ok (hmem : cfg.memWords < 2 ^ 32) (h : PoolOk cfg n p) (ha : p.dly.allocated = false) (hn : 0 < n.toNat)
    (code : Code) (st : Status) :
    PoolOk cfg n (settleAlloc code (tryDelay cfg n p) p st).pool ∧
      (settleAlloc code (tryDelay cfg n p) p st).pool.dly.allocated = (settleAlloc code (tryDelay cfg n p) p st).enabled ∧
      (settleAlloc code (tryDelay cfg n p) p st).pool.rev = p.rev := by
  cases ht : tryDelay cfg n p with
  | none => exact ⟨h, ha, rfl⟩
  | some p' => exact tryDelay_ok hmem h ha hn ht

end

/-- One sample through the reverb. -/
theorem PoolOk.reverbRan {cfg : Config} {n : Word} {js : List (Fin 6)} {p p' : Pool} (h : PoolOk cfg n p)
    (hr : ReverbRan js p p') (ha : p.rev.allocated = true) : PoolOk cfg n p' where
  total := by
    rw [reverbWords, delayWords, hr.free, hr.dly, hr.allocated, reverbSize, hr.len]
    exact h.total
  reverb := fun _ => ⟨hr.base.trans (h.reverb ha).1, hr.bounds (h.reverb ha).2⟩
  delay := by
    rw [hr.dly]
    exact h.delay
  mem := hr.wf h.mem

/-- One sample through the delay. -/
theorem PoolOk.delayRun {cfg : Config} {n : Word} {x : Settings} {delayD : Word} {input y : F32} {p p' : Pool}
    (h : PoolOk cfg n p) (ha : p.dly.allocated = true) (hr : delayRun cfg x delayD input p = .ok (y, p')) :
    PoolOk cfg n p' ∧ p'.rev = p.rev ∧ p'.dly.allocated = true := by
  obtain ⟨v, rfl⟩ := delayRun_ok hr
  obtain ⟨hbase, hwp, hsize⟩ := h.delay ha
  refine ⟨⟨h.total, h.reverb, fun _ => ⟨hbase, ?_, hsize⟩, writeCell_wf _ _ h.mem⟩, rfl, ha⟩
  have hlt : (p.dly.wp.toNat + 1) % p.dly.size.toNat < p.dly.size.toNat := Nat.mod_lt _ (by omega)
  rw [BitVec.toNat_ofNat]
  exact (Nat.mod_le _ _).trans_lt hlt

/-! ### With the enables -/

/-- What the invariant says of the buffers, with n words in an allocated delay. -/
structure BuffersOk (n : Word) (s : State) : Prop where
  reverb : s.pool.rev.allocated = s.settings.reverbEnable
  delay : s.pool.dly.allocated = s.settings.delayEnable
  pool : PoolOk s.cfg n s.pool

theorem reverbIndicesOk_iff (rev : Reverb) :
    reverbIndicesOk rev = true ↔ ∀ j : Fin 6, rev.idx[j].toNat < rev.len[j].toNat := by
  simp [reverbIndicesOk, List.all_eq_true]

theorem buffersOk_iff (s : State) : buffersOk s = true ↔ BuffersOk s.derived.delayN s := by
  simp only [buffersOk, Bool.and_eq_true, beq_iff_eq, decide_eq_true_eq, Bool.or_eq_true, Bool.not_eq_true',
    reverbIndicesOk_iff, ← imp_iff_not_or, Bool.eq_false_iff, ne_eq, and_assoc]
  constructor
  · rintro ⟨reverbEnable, delayEnable, total, reverb, delay, mem⟩
    exact ⟨reverbEnable, delayEnable, total, reverb, delay, mem⟩
  · rintro ⟨reverbEnable, delayEnable, total, reverb, delay, mem⟩
    exact ⟨reverbEnable, delayEnable, total, reverb, delay, mem⟩

section

variable {s : State} {n : Word}

theorem reverbFree_buffersOk (hmem : s.cfg.memWords < 2 ^ 32) (h : BuffersOk n s) (ha : s.pool.rev.allocated = true) :
    BuffersOk n (reverbFree s) :=
  ⟨rfl, h.delay, freeReverb_ok hmem h.pool ha⟩

theorem delayFree_buffersOk (hmem : s.cfg.memWords < 2 ^ 32) (h : BuffersOk n s) (ha : s.pool.dly.allocated = true)
    (n' : Word) : BuffersOk n' (delayFree s) :=
  ⟨h.reverb, rfl, freeDelay_ok hmem h.pool ha n'⟩

theorem reverbAlloc_buffersOk (h : BuffersOk n s) (ha : s.pool.rev.allocated = false) : BuffersOk n (reverbAlloc s) := by
  obtain ⟨pool, allocated, dly⟩ := settleReverb_ok h.pool ha .reverbAlloc s.settings.sampleRate s.status
  exact ⟨allocated, (congrArg Delay.allocated dly).trans h.delay, pool⟩

theorem delayAlloc_buffersOk (hmem : s.cfg.memWords < 2 ^ 32) (h : BuffersOk s.derived.delayN s)
    (ha : s.pool.dly.allocated = false) (hpos : 0 < s.derived.delayN.toNat) :
    BuffersOk s.derived.delayN (delayAlloc s) := by
  obtain ⟨pool, allocated, rev⟩ := settleDelay_ok hmem h.pool ha hpos .delayAlloc s.status
  exact ⟨(congrArg Reverb.allocated rev).trans h.reverb, allocated, pool⟩

theorem reverbEnableRule_buffersOk (hmem : s.cfg.memWords < 2 ^ 32) (h : BuffersOk n s) (on : Bool) :
    BuffersOk n (reverbEnableRule on s) := by
  unfold reverbEnableRule
  split_ifs with honce hback
  · exact reverbAlloc_buffersOk h (by simpa [h.reverb] using ((Bool.and_eq_true _ _).mp honce).2)
  · exact reverbFree_buffersOk hmem h (h.reverb.trans ((Bool.and_eq_true _ _).mp hback).2)
  · exact h

theorem delayEnableRule_buffersOk (hmem : s.cfg.memWords < 2 ^ 32) (h : BuffersOk s.derived.delayN s)
    (hpos : 0 < s.derived.delayN.toNat) (on : Bool) : BuffersOk s.derived.delayN (delayEnableRule on s) := by
  unfold delayEnableRule
  split_ifs with honce hback
  · exact delayAlloc_buffersOk hmem h (by simpa [h.delay] using ((Bool.and_eq_true _ _).mp honce).2) hpos
  · exact delayFree_buffersOk hmem h (h.delay.trans ((Bool.and_eq_true _ _).mp hback).2) _
  · exact h

/-- Reallocation after DELAY_N has changed: an allocated delay is freed with the old number of words and allocated with the new
one (45_reverb_delay.md R246). -/
theorem effectsRealloc_buffersOk (hmem : s.cfg.memWords < 2 ^ 32) (h : BuffersOk n s) (hpos : 0 < s.derived.delayN.toNat) :
    BuffersOk s.derived.delayN (effectsRealloc s) := by
  have hrev : (s.cfg.reverbLenMode == .scaled && s.pool.rev.allocated) = true → s.pool.rev.allocated = true := fun h =>
    ((Bool.and_eq_true _ _).mp h).2
  unfold effectsRealloc
  cases hr : (s.cfg.reverbLenMode == .scaled && s.pool.rev.allocated) <;> cases hd : s.pool.dly.allocated
  · exact ⟨h.reverb, h.delay, h.pool.resized hd _⟩
  · exact delayAlloc_buffersOk (s := delayFree s) hmem (delayFree_buffersOk hmem h hd _) rfl hpos
  · have resized : BuffersOk s.derived.delayN s := ⟨h.reverb, h.delay, h.pool.resized hd _⟩
    exact reverbAlloc_buffersOk (reverbFree_buffersOk hmem resized (hrev hr)) rfl
  · have freed : BuffersOk s.derived.delayN (delayFree (reverbFree s)) :=
      delayFree_buffersOk (s := reverbFree s) hmem (reverbFree_buffersOk hmem h (hrev hr)) hd _
    have allocated : BuffersOk s.derived.delayN (reverbAlloc (delayFree (reverbFree s))) := reverbAlloc_buffersOk freed rfl
    exact delayAlloc_buffersOk (s := reverbAlloc (delayFree (reverbFree s))) hmem allocated
      (allocated.delay.trans rfl) hpos

end

end Sys2Proof.Machine
end

-- Proofs of the family 10_state.md: the machine's invariant.
section
/-! Every step keeps the invariant. Its part that a running command's rule keeps by itself (`Sound`: the parameters, the bank, the
settings with their coefficients, the buffers) is kept by every rule; STATUS, the halted state and the pending words are added to
it (10_state.md R33, 60_exceptions.md R299, 30_encoding.md R99). -/

namespace Sys2Proof.Machine

open Sys2Proof

/-- The part of the invariant that every rule keeps by itself. -/
structure Sound (s : State) : Prop where
  inst : isInstance s.cfg = true
  bank : BankOk s.cfg s.settings.voiceCount.toNat s.voices
  ranges : SettingsRange s.cfg s.settings
  derived : s.derived = deriveAll s.settings
  buffers : BuffersOk s.derived.delayN s

theorem Sound.memWords_lt {s : State} (h : Sound s) : s.cfg.memWords < 2 ^ 32 := by
  obtain ⟨_, _, _, _, _, hmem, _⟩ := (isInstance_iff s.cfg).1 h.inst
  exact hmem

/-- DELAY_N is SAMPLE_RATE, which R8 does not allow to be 0 (45_reverb_delay.md R232). -/
theorem delayN_pos {s : State} (hc : isInstance s.cfg = true) (hr : SettingsRange s.cfg s.settings)
    (hd : s.derived = deriveAll s.settings) : 0 < s.derived.delayN.toNat := by
  obtain ⟨_, ⟨hmin, _⟩, _⟩ := (isInstance_iff s.cfg).1 hc
  have hn : s.derived.delayN = delayNOf s.settings.sampleRate := by rw [hd]; rfl
  rw [hn, delayNOf_toNat]
  exact hmin.trans hr.sampleRate.1

theorem Sound.delayN_pos {s : State} (h : Sound s) : 0 < s.derived.delayN.toNat :=
  Machine.delayN_pos h.inst h.ranges h.derived

/-! ### Rules that write settings -/

/-- Two states alike but for settings that neither the bank nor the buffers depend on, and their coefficients. -/
structure SettingsOnly (s t : State) : Prop where
  cfg : t.cfg = s.cfg
  voices : t.voices = s.voices
  pool : t.pool = s.pool
  sampleRate : t.settings.sampleRate = s.settings.sampleRate
  voiceCount : t.settings.voiceCount = s.settings.voiceCount
  reverbEnable : t.settings.reverbEnable = s.settings.reverbEnable
  delayEnable : t.settings.delayEnable = s.settings.delayEnable

/-- A rule that writes such a setting within its range, with the coefficients of the settings it leaves. -/
theorem Sound.settings {s t : State} (h : Sound s) (same : SettingsOnly s t) (hr : SettingsRange t.cfg t.settings)
    (hd : t.derived = deriveAll t.settings) : Sound t where
  inst := by rw [same.cfg]; exact h.inst
  bank := by rw [same.cfg, same.voiceCount, same.voices]; exact h.bank
  ranges := hr
  derived := hd
  buffers := by
    have hn : t.derived.delayN = s.derived.delayN := by
      rw [hd, h.derived]
      exact congrArg delayNOf same.sampleRate
    rw [hn]
    refine ⟨?_, ?_, ?_⟩
    · rw [same.pool, same.reverbEnable]; exact h.buffers.reverb
    · rw [same.pool, same.delayEnable]; exact h.buffers.delay
    · rw [same.cfg, same.pool]; exact h.buffers.pool

section

variable {s : State} (h : Sound s)
include h

theorem filterEnableRule_sound (on : Bool) : Sound (filterEnableRule on s) := by
  unfold filterEnableRule
  dsimp only
  split_ifs <;> exact h.settings ⟨rfl, rfl, rfl, rfl, rfl, rfl, rfl⟩ { h.ranges with } h.derived

theorem eqEnableRule_sound (on : Bool) : Sound (eqEnableRule on s) := by
  unfold eqEnableRule
  dsimp only
  split_ifs <;> exact h.settings ⟨rfl, rfl, rfl, rfl, rfl, rfl, rfl⟩ { h.ranges with } h.derived

theorem lfoRateRule_sound {rate : F32} (hn : fIsNaN rate = false) : Sound (lfoRateRule rate s) := by
  refine h.settings ⟨rfl, rfl, rfl, rfl, rfl, rfl, rfl⟩ { h.ranges with lfoRate := clampLfoRate_inRange hn } ?_
  simp only [lfoRateRule, withDerived_derived, h.derived]
  rfl

theorem recomputeFilter_sound {x : Settings} (hx : SettingsRange s.cfg x)
    (same : SettingsOnly s (s.withSettings x)) (hd : { deriveAll s.settings with
      filterF := filterFOf x.filterCutoff x.sampleRate, filterQ := filterQOf x.filterResonance } = deriveAll x) :
    Sound (recomputeFilter (s.withSettings x)) := by
  refine h.settings ⟨rfl, rfl, rfl, same.sampleRate, same.voiceCount, same.reverbEnable, same.delayEnable⟩ hx ?_
  rw [← h.derived] at hd
  exact hd

theorem bassGainRule_sound {gain : F32} (hn : fIsNaN gain = false) : Sound (bassGainRule gain s) := by
  refine h.settings ⟨rfl, rfl, rfl, rfl, rfl, rfl, rfl⟩ { h.ranges with eqBassGain := clampGain_inRange hn } ?_
  simp only [bassGainRule, withDerived_derived, h.derived]
  rfl

theorem midGainRule_sound {gain : F32} (hn : fIsNaN gain = false) : Sound (midGainRule gain s) := by
  refine h.settings ⟨rfl, rfl, rfl, rfl, rfl, rfl, rfl⟩ { h.ranges with eqMidGain := clampGain_inRange hn } ?_
  simp only [midGainRule, withDerived_derived, h.derived]
  rfl

theorem trebleGainRule_sound {gain : F32} (hn : fIsNaN gain = false) : Sound (trebleGainRule gain s) := by
  refine h.settings ⟨rfl, rfl, rfl, rfl, rfl, rfl, rfl⟩ { h.ranges with eqTrebleGain := clampGain_inRange hn } ?_
  simp only [trebleGainRule, withDerived_derived, h.derived]
  rfl

theorem roomSizeRule_sound {roomSize : F32} (hn : fIsNaN roomSize = false) : Sound (roomSizeRule roomSize s) := by
  refine h.settings ⟨rfl, rfl, rfl, rfl, rfl, rfl, rfl⟩ { h.ranges with reverbRoomSize := clampUnit_inRange hn } ?_
  simp only [roomSizeRule, withDerived_derived, h.derived]
  rfl

theorem delayTimeRule_sound {time : F32} (hn : fIsNaN time = false) : Sound (delayTimeRule time s) := by
  refine h.settings ⟨rfl, rfl, rfl, rfl, rfl, rfl, rfl⟩ { h.ranges with delayTime := clampDelayTime_inRange hn } ?_
  simp only [delayTimeRule, withDerived_derived, h.derived]
  rfl

end

/-! ### Rules that move voices -/

/-- A rule that replaces the voices. -/
theorem Sound.voices {s : State} (h : Sound s) {vs : List Voice} (hb : BankOk s.cfg s.settings.voiceCount.toNat vs) :
    Sound (s.withVoices vs) :=
  ⟨h.inst, hb, h.ranges, h.derived, ⟨h.buffers.reverb, h.buffers.delay, h.buffers.pool⟩⟩

theorem noteOnRule_sound {s : State} (h : Sound s) (velocity note : BitVec 8) : Sound (noteOnRule velocity note s) :=
  h.voices (h.bank.started h.inst h.ranges.voiceCount.1 fun _ => .started _ _ _ _)

theorem noteOffRule_sound {s : State} (h : Sound s) (note : BitVec 8) : Sound (noteOffRule note s) :=
  h.voices (h.bank.map_take h.inst h.ranges.voiceCount.2 fun _ => .released _)

theorem allOff_sound {s : State} (h : Sound s) : Sound (s.withVoices (s.voices.map silenceVoice)) :=
  h.voices (h.bank.silenced h.inst)

theorem voiceCountRule_sound {s : State} (h : Sound s) (count : BitVec 8) : Sound (voiceCountRule count s) where
  inst := h.inst
  bank := h.bank.recounted h.inst (clampVoiceCount_inRange h.inst _).2
  ranges := { h.ranges with voiceCount := clampVoiceCount_inRange h.inst _ }
  derived := h.derived
  buffers := ⟨h.buffers.reverb, h.buffers.delay, h.buffers.pool⟩

/-! ### Rules that allocate and free -/

/-- Two states alike but for the pool, STATUS and the two enables. -/
structure BuffersOnly (s t : State) : Prop where
  cfg : t.cfg = s.cfg
  voices : t.voices = s.voices
  derived : t.derived = s.derived
  settings : ∃ reverb delay, t.settings = { s.settings with reverbEnable := reverb, delayEnable := delay }

theorem BuffersOnly.refl (s : State) : BuffersOnly s s :=
  ⟨rfl, rfl, rfl, s.settings.reverbEnable, s.settings.delayEnable, rfl⟩

theorem BuffersOnly.trans {s t u : State} (h : BuffersOnly s t) (h' : BuffersOnly t u) : BuffersOnly s u := by
  obtain ⟨reverb, delay, settings⟩ := h.settings
  obtain ⟨reverb', delay', settings'⟩ := h'.settings
  exact ⟨h'.cfg.trans h.cfg, h'.voices.trans h.voices, h'.derived.trans h.derived, reverb', delay',
    by rw [settings', settings]⟩

theorem reverbAlloc_only (s : State) : BuffersOnly s (reverbAlloc s) :=
  ⟨rfl, rfl, rfl, (reverbAlloc s).settings.reverbEnable, s.settings.delayEnable, rfl⟩

theorem reverbFree_only (s : State) : BuffersOnly s (reverbFree s) := ⟨rfl, rfl, rfl, false, s.settings.delayEnable, rfl⟩

theorem delayAlloc_only (s : State) : BuffersOnly s (delayAlloc s) :=
  ⟨rfl, rfl, rfl, s.settings.reverbEnable, (delayAlloc s).settings.delayEnable, rfl⟩

theorem delayFree_only (s : State) : BuffersOnly s (delayFree s) := ⟨rfl, rfl, rfl, s.settings.reverbEnable, false, rfl⟩

theorem reverbEnableRule_only (on : Bool) (s : State) : BuffersOnly s (reverbEnableRule on s) := by
  unfold reverbEnableRule
  split_ifs
  · exact reverbAlloc_only s
  · exact reverbFree_only s
  · exact .refl s

theorem delayEnableRule_only (on : Bool) (s : State) : BuffersOnly s (delayEnableRule on s) := by
  unfold delayEnableRule
  split_ifs
  · exact delayAlloc_only s
  · exact delayFree_only s
  · exact .refl s

theorem effectsRealloc_only (s : State) : BuffersOnly s (effectsRealloc s) := by
  rcases effectsRealloc_cases s with h | h | h | h <;> rw [h]
  · exact .refl s
  · exact (reverbFree_only s).trans (reverbAlloc_only _)
  · exact (delayFree_only s).trans (delayAlloc_only _)
  · exact (((reverbFree_only s).trans (delayFree_only _)).trans (reverbAlloc_only _)).trans (delayAlloc_only _)

/-- A rule that allocates or frees, if its buffers are as they should be. -/
theorem sound_of_buffersOnly {s t : State} (hc : isInstance s.cfg = true)
    (hb : BankOk s.cfg s.settings.voiceCount.toNat s.voices) (hr : SettingsRange s.cfg s.settings)
    (hd : s.derived = deriveAll s.settings) (only : BuffersOnly s t) (buffers : BuffersOk s.derived.delayN t) : Sound t := by
  obtain ⟨cfg, voices, derived, reverb, delay, settings⟩ := only
  refine ⟨?_, ?_, ?_, ?_, ?_⟩
  · rw [cfg]; exact hc
  · rw [cfg, voices, settings]; exact hb
  · rw [cfg, settings]; exact { hr with }
  · rw [derived, settings]; exact hd
  · rw [derived]; exact buffers

theorem reverbEnableRule_sound {s : State} (h : Sound s) (on : Bool) : Sound (reverbEnableRule on s) :=
  sound_of_buffersOnly h.inst h.bank h.ranges h.derived (reverbEnableRule_only on s)
    (reverbEnableRule_buffersOk h.memWords_lt h.buffers on)

theorem delayEnableRule_sound {s : State} (h : Sound s) (on : Bool) : Sound (delayEnableRule on s) :=
  sound_of_buffersOnly h.inst h.bank h.ranges h.derived (delayEnableRule_only on s)
    (delayEnableRule_buffersOk h.memWords_lt h.buffers h.delayN_pos on)

/-- SHUTDOWN's rule, part by part: silence, free the reverb, free the delay. -/
theorem shutdownRule_eq (s : State) :
    shutdownRule s =
      (delayEnableRule false (reverbEnableRule false (s.withVoices (s.voices.map silenceVoice)))).withHalted true := rfl

theorem shutdownRule_sound {s : State} (h : Sound s) : Sound (shutdownRule s) := by
  have silent := delayEnableRule_sound (reverbEnableRule_sound (allOff_sound h) false) false
  rw [shutdownRule_eq]
  exact ⟨silent.inst, silent.bank, silent.ranges, silent.derived,
    silent.buffers.reverb, silent.buffers.delay, silent.buffers.pool⟩

/-- What SET_SAMPLE_RATE writes before it reallocates: the settings and the coefficients agree again. -/
theorem withRate_ranges_derived {s : State} (h : Sound s) (rate : Word) :
    SettingsRange (withRate rate s).cfg (withRate rate s).settings ∧
      (withRate rate s).derived = deriveAll (withRate rate s).settings := by
  refine ⟨{ h.ranges with sampleRate := clampSampleRate_inRange h.inst _ }, ?_⟩
  simp only [withRate, withDerived_derived, rateDerived, h.derived]
  rfl

theorem sampleRateRule_sound {s : State} (h : Sound s) (rate : Word) : Sound (sampleRateRule rate s) := by
  obtain ⟨ranges, derived⟩ := withRate_ranges_derived h rate
  have buffers : BuffersOk s.derived.delayN (withRate rate s) := ⟨h.buffers.reverb, h.buffers.delay, h.buffers.pool⟩
  rw [sampleRateRule_eq]
  split_ifs with hsame
  · exact h.settings ⟨rfl, rfl, rfl, hsame, rfl, rfl, rfl⟩ ranges derived
  · exact sound_of_buffersOnly (s := withRate rate s) h.inst h.bank ranges derived (effectsRealloc_only _)
      (effectsRealloc_buffersOk (s := withRate rate s) h.memWords_lt buffers (delayN_pos h.inst ranges derived))

/-! ### Every rule -/

theorem readRegRule_sound {s : State} (h : Sound s) (n : BitVec 8) : Sound (readRegRule n s) := by
  unfold readRegRule
  split <;> exact h.settings ⟨rfl, rfl, rfl, rfl, rfl, rfl, rfl⟩ h.ranges h.derived

/-- The rule of a command that is not TICK, with an operand that is no NaN, keeps the invariant. -/
theorem ruleOf_sound {i : Instr} {s : State} (h : Sound s) (hn : ∀ x, floatOperand i = some x → fIsNaN x = false) :
    Sound (ruleOf i s) := by
  cases i
  case nop | tick => exact h
  case noteOn => exact noteOnRule_sound h _ _
  case noteOff => exact noteOffRule_sound h _
  case allOff => exact allOff_sound h
  case setVoiceCount => exact voiceCountRule_sound h _
  case setSampleRate => exact sampleRateRule_sound h _
  case setLfoRate => exact lfoRateRule_sound h (hn _ rfl)
  case setFilterEnable => exact filterEnableRule_sound h _
  case setFilterCutoff =>
    exact recomputeFilter_sound h { h.ranges with filterCutoff := clampCutoff_inRange (hn _ rfl) }
      ⟨rfl, rfl, rfl, rfl, rfl, rfl, rfl⟩ rfl
  case setFilterResonance =>
    exact recomputeFilter_sound h { h.ranges with filterResonance := clampResonance_inRange (hn _ rfl) }
      ⟨rfl, rfl, rfl, rfl, rfl, rfl, rfl⟩ rfl
  case setEqEnable => exact eqEnableRule_sound h _
  case setEqBassGain => exact bassGainRule_sound h (hn _ rfl)
  case setEqMidGain => exact midGainRule_sound h (hn _ rfl)
  case setEqTrebleGain => exact trebleGainRule_sound h (hn _ rfl)
  case setReverbEnable => exact reverbEnableRule_sound h _
  case setReverbRoomSize => exact roomSizeRule_sound h (hn _ rfl)
  case setDelayEnable => exact delayEnableRule_sound h _
  case setDelayTime => exact delayTimeRule_sound h (hn _ rfl)
  case readReg => exact readRegRule_sound h _
  case shutdown => exact shutdownRule_sound h
  case setLfoDepth =>
    exact h.settings ⟨rfl, rfl, rfl, rfl, rfl, rfl, rfl⟩
      { h.ranges with lfoDepth := clampLfoDepth_inRange (hn _ rfl) } h.derived
  case setReverbDamping =>
    exact h.settings ⟨rfl, rfl, rfl, rfl, rfl, rfl, rfl⟩
      { h.ranges with reverbDamping := clampUnit_inRange (hn _ rfl) } h.derived
  case setReverbWet =>
    exact h.settings ⟨rfl, rfl, rfl, rfl, rfl, rfl, rfl⟩
      { h.ranges with reverbWet := clampUnit_inRange (hn _ rfl) } h.derived
  case setDelayFeedback =>
    exact h.settings ⟨rfl, rfl, rfl, rfl, rfl, rfl, rfl⟩
      { h.ranges with delayFeedback := clampFeedback_inRange (hn _ rfl) } h.derived
  case setDelayMix =>
    exact h.settings ⟨rfl, rfl, rfl, rfl, rfl, rfl, rfl⟩
      { h.ranges with delayMix := clampMix_inRange (hn _ rfl) } h.derived
  -- the settings without a range, and CLEAR_STATUS
  case setMasterVolume | setWaveform | setLfoEnable | setLfoVibrato | setLfoTremolo | setFilterType | clearStatus =>
    exact h.settings ⟨rfl, rfl, rfl, rfl, rfl, rfl, rfl⟩ { h.ranges with } h.derived

/-! ### TICK -/

theorem reverbStaged_ok {s : State} {p : Pool} (h : BuffersOk s.derived.delayN s) (hp : reverbStaged s p) :
    PoolOk s.cfg s.derived.delayN p ∧ p.rev.allocated = s.settings.reverbEnable ∧
      p.dly.allocated = s.settings.delayEnable := by
  rcases hp with ⟨_, rfl⟩ | ⟨hon, x, y, hrun⟩
  · exact ⟨h.pool, h.reverb, h.delay⟩
  · have ran := reverbRun_ok hrun
    refine ⟨h.pool.reverbRan ran (h.reverb.trans hon), ran.allocated.trans h.reverb, ?_⟩
    rw [ran.dly, h.delay]

theorem delayStaged_ok {s : State} {p p' : Pool} (h : PoolOk s.cfg s.derived.delayN p)
    (ha : p.dly.allocated = s.settings.delayEnable) (hp : delayStaged s p p') :
    PoolOk s.cfg s.derived.delayN p' ∧ p'.rev = p.rev ∧ p'.dly.allocated = s.settings.delayEnable := by
  rcases hp with ⟨_, rfl⟩ | ⟨hon, x, y, hrun⟩
  · exact ⟨h, rfl, ha⟩
  · obtain ⟨ok, rev, allocated⟩ := h.delayRun (ha.trans hon) hrun
    exact ⟨ok, rev, allocated.trans hon.symm⟩

theorem tickRule_sound {s t : State} (h : Sound s) (ht : tickRule s = .next t) : Sound t := by
  obtain ⟨svf, eq, p, p', m, rfl, _, _, hreverb, hdelay⟩ := tickRule_next ht
  obtain ⟨reverbOk, reverb, delay⟩ := reverbStaged_ok h.buffers hreverb
  obtain ⟨delayOk, rev, delay'⟩ := delayStaged_ok reverbOk delay hdelay
  refine ⟨h.inst, ?_, h.ranges, h.derived, ⟨(congrArg Reverb.allocated rev).trans reverb, delay', delayOk⟩⟩
  obtain ⟨vib, trem, voices⟩ := tickVoices_voices s
  show BankOk s.cfg s.settings.voiceCount.toNat (tickVoices s).2.voices
  rw [voices]
  exact h.bank.map_take h.inst h.ranges.voiceCount.2 fun u => .sampled _ vib trem

/-! ### Reset -/

theorem resetReverb_ok {cfg : Config} (hmem : cfg.memWords < 2 ^ 32) (x : Settings) (n : Word) :
    PoolOk cfg n (resetReverb cfg x).pool ∧ (resetReverb cfg x).pool.rev.allocated = (resetReverb cfg x).enabled ∧
      (resetReverb cfg x).pool.dly.allocated = false := by
  have empty := emptyPool_ok hmem n
  unfold resetReverb
  split_ifs
  · exact ⟨empty, rfl, rfl⟩
  · obtain ⟨ok, allocated, dly⟩ := settleReverb_ok empty rfl .reverbAlloc x.sampleRate clearedStatus
    exact ⟨ok, allocated, congrArg Delay.allocated dly⟩

theorem resetDelay_ok {cfg : Config} (hmem : cfg.memWords < 2 ^ 32) {d : Derived} {r : AllocResult}
    (hp : PoolOk cfg d.delayN r.pool) (hd : r.pool.dly.allocated = false) (hpos : 0 < d.delayN.toNat) :
    PoolOk cfg d.delayN (resetDelay cfg d r).pool ∧
      (resetDelay cfg d r).pool.dly.allocated = (resetDelay cfg d r).enabled ∧
      (resetDelay cfg d r).pool.rev = r.pool.rev := by
  unfold resetDelay
  split_ifs
  · exact ⟨hp, hd, rfl⟩
  · exact settleDelay_ok hmem hp hd hpos .delayAlloc r.status

theorem resetOf_sound {cfg : Config} (hc : isInstance cfg = true) : Sound (State.resetOf cfg) := by
  obtain ⟨_, ⟨hmin, _⟩, _, _, _, hmem, _⟩ := (isInstance_iff cfg).1 hc
  have ranges := initialSettings_inRange hc
  have hpos : 0 < (deriveAll (initialSettings cfg)).delayN.toNat := by
    show 0 < (delayNOf (initialSettings cfg).sampleRate).toNat
    rw [delayNOf_toNat]
    exact hmin.trans ranges.sampleRate.1
  obtain ⟨reverbOk, reverb, empty⟩ := resetReverb_ok hmem (initialSettings cfg) (deriveAll (initialSettings cfg)).delayN
  obtain ⟨delayOk, delay, rev⟩ := resetDelay_ok hmem reverbOk empty hpos
  exact ⟨hc, bankOk_replicate cfg _, { ranges with }, rfl, ⟨(congrArg Reverb.allocated rev).trans reverb, delay, delayOk⟩⟩

end Sys2Proof.Machine
end

-- Proofs of the family 10_state.md: every step keeps the invariant.
section
/-! The invariant is its part that every rule keeps, STATUS (10_state.md R33), the silence of a halted block (60_exceptions.md R299)
and the pending words (30_encoding.md R99). A step keeps all four. -/

namespace Sys2Proof.Machine

open Sys2Proof

/-! ### The invariant in its parts -/

theorem bank_iff (s : State) :
    (voicesConsistent s = true ∧ envelopesInPhase s = true ∧ q16PhasesOk s = true ↔
      ∀ v ∈ s.voices, VoiceOk s.cfg v) := by
  have hphase : q16PhasesOk s = true ↔ s.cfg.phaseRepr = .q16 → ∀ v ∈ s.voices, v.phase.toNat < 65536 := by
    rw [q16PhasesOk, Bool.or_eq_true, beq_iff_eq, decide_eq_false_iff_not, ← imp_iff_not_or, List.all_eq_true]
    simp only [decide_eq_true_eq]
  rw [voicesConsistent_iff, envelopesInPhase, List.all_eq_true, hphase]
  constructor
  · rintro ⟨consistent, envelope, phase⟩ v hv
    exact ⟨consistent v hv, envelope v hv, fun hq => phase hq v hv⟩
  · intro h
    exact ⟨fun v hv => (h v hv).consistent, fun v hv => (h v hv).envelope, fun hq v hv => (h v hv).phase hq⟩

theorem bankOk_iff (s : State) :
    bankOk s = true ↔ s.voices.length = s.cfg.maxVoices ∧
      (1 ≤ s.settings.voiceCount.toNat ∧ s.settings.voiceCount.toNat ≤ s.cfg.maxVoices) ∧
      ∀ v ∈ s.voices.drop s.settings.voiceCount.toNat, v.active = false := by
  simp only [bankOk, Bool.and_eq_true, decide_eq_true_eq, List.all_eq_true, Bool.not_eq_true', and_assoc]

/-- The invariant, its parts together. -/
theorem inv_iff (s : State) :
    Inv s ↔ Sound s ∧ statusOk s.status = true ∧ haltedOk s = true ∧ pendingOk s.pending = true := by
  constructor
  · intro h
    obtain ⟨length, _, quiet⟩ := (bankOk_iff s).1 h.bank
    have voices := (bank_iff s).1 ⟨h.consistent, h.envelopes, h.phases⟩
    exact ⟨⟨h.inst, ⟨length, voices, quiet⟩, (settingsInRange_iff _ _).1 h.settings, h.derived,
      (buffersOk_iff s).1 h.buffers⟩, h.status, h.halted, h.pending⟩
  · rintro ⟨sound, status, halted, pending⟩
    obtain ⟨consistent, envelopes, phases⟩ := (bank_iff s).2 sound.bank.voices
    exact {
      inst := sound.inst
      consistent := consistent
      bank := (bankOk_iff s).2 ⟨sound.bank.length, sound.ranges.voiceCount, sound.bank.quiet⟩
      envelopes := envelopes
      phases := phases
      settings := (settingsInRange_iff _ _).2 sound.ranges
      derived := sound.derived
      buffers := (buffersOk_iff s).2 sound.buffers
      status := status
      halted := halted
      pending := pending }

/-! ### STATUS -/

theorem statusOk_recordCode (code : Code) (st : Status) : statusOk (recordCode code st) = true := by
  cases code <;> simp [statusOk, recordCode, codeNumber]

theorem Recorded.statusOk {st st' : Status} (h : Recorded st st') (hst : statusOk st = true) : statusOk st' = true :=
  h.keeps (P := fun st => Machine.statusOk st = true) (fun code st _ => statusOk_recordCode code st) hst

theorem exec_statusOk {i : Instr} {s t : State} (h : exec i s = .next t) (hs : statusOk s.status = true) :
    statusOk t.status = true := by
  rcases exec_status h with hclear | recorded
  · rw [hclear]
    rfl
  · exact recorded.statusOk hs

/-! ### The halted state -/

theorem haltedOk_of_running {s : State} (h : s.halted = false) : haltedOk s = true := by simp [haltedOk, h]

theorem shutdownRule_enables (s : State) :
    (shutdownRule s).settings.reverbEnable = false ∧ (shutdownRule s).settings.delayEnable = false := by
  have off : ∀ {b : Bool}, ¬ b = true → b = false := by simp
  unfold shutdownRule
  dsimp only
  split_ifs with hr hd hd
  · exact ⟨rfl, rfl⟩
  · exact ⟨rfl, off hd⟩
  · exact ⟨off hr, rfl⟩
  · exact ⟨off hr, off hd⟩

/-- SHUTDOWN leaves every voice silent and both buffers free (47_system.md R272): the enables tell the allocations. -/
theorem shutdownRule_haltedOk {s : State} (h : Sound s) : haltedOk (shutdownRule s) = true := by
  have buffers := (shutdownRule_sound h).buffers
  obtain ⟨reverb, delay⟩ := shutdownRule_enables s
  have silent : ∀ v ∈ (shutdownRule s).voices, v.active = false := by
    rw [shutdownRule_voices]
    intro v hv
    obtain ⟨u, _, rfl⟩ := List.mem_map.1 hv
    rfl
  simp only [haltedOk, buffers.reverb, buffers.delay, reverb, delay]
  simpa using .inr silent

/-- A rule that runs while halted keeps the voices and the buffers. -/
theorem ruleOf_of_runsWhileHalted {i : Instr} (hi : runsWhileHalted i = true) (s : State) :
    (ruleOf i s).voices = s.voices ∧ (ruleOf i s).pool = s.pool := by
  cases i
  case nop | clearStatus => exact ⟨rfl, rfl⟩
  case readReg n =>
    simp only [ruleOf, readRegRule]
    split <;> exact ⟨rfl, rfl⟩
  all_goals cases hi

/-- A command keeps a halted block silent, and SHUTDOWN silences it. -/
theorem exec_haltedOk {i : Instr} {s t : State} (h : exec i s = .next t) (sound : Sound s)
    (hs : haltedOk s = true) : haltedOk t = true := by
  rcases exec_cases h with ⟨code, _, rfl⟩ | ⟨hruns, _, ⟨hi, ht⟩ | ⟨_, rfl⟩⟩
  · exact hs
  · obtain ⟨a, b, c, rfl⟩ := (isTick_iff i).1 hi
    obtain ⟨svf, eq, p, p', m, rfl, _⟩ := tickRule_next ht
    exact haltedOk_of_running (hruns.resolve_right (by simp [runsWhileHalted]))
  · by_cases hshut : ∃ a b c, i = .shutdown a b c
    · obtain ⟨a, b, c, rfl⟩ := hshut
      exact shutdownRule_haltedOk sound
    · have halted := ruleOf_halted (fun a b c he => hshut ⟨a, b, c, he⟩) s
      rcases hruns with hrun | hi
      · exact haltedOk_of_running (halted.trans hrun)
      · obtain ⟨voices, pool⟩ := ruleOf_of_runsWhileHalted hi s
        rw [haltedOk, halted, voices, pool]
        exact hs

/-! ### The pending words -/

/-- Only a word that begins a format-P command is latched. -/
theorem beginsFormatP_of_first {pending : Option Word} {w : Word} (h : fetchWords pending w = .first) :
    beginsFormatP w = true := by
  unfold fetchWords at h
  cases pending with
  | none =>
    unfold beginsFormatP
    cases hw : formatPRow (opcodeOf w).toNat with
    | some command => rfl
    | none =>
      simp only [Option.toList_none, List.nil_append, decode, hw] at h
      cases ha : formatARow (opcodeOf w).toNat <;> simp [ha] at h
  | some first =>
    simp only [Option.toList_some, List.cons_append, List.nil_append, decode] at h
    cases hp : formatPRow (opcodeOf first).toNat <;> cases ha : formatARow (opcodeOf first).toNat <;> simp [hp, ha] at h

theorem setPending_ok {p : Pending} (h : pendingOk p = true) (agent : Agent) {w : Option Word}
    (hw : w.all beginsFormatP = true) : pendingOk (setPending p agent w) = true := by
  rw [pendingOk, Bool.and_eq_true] at h ⊢
  cases agent with
  | host => exact ⟨hw, h.2⟩
  | sampleClock => exact ⟨h.1, hw⟩

theorem pendingAfter_ok {p : Pending} (h : pendingOk p = true) (agent : Agent) (w : Word) :
    pendingOk (pendingAfter p agent w) = true := by
  unfold pendingAfter
  split
  case h_1 hfirst => exact setPending_ok h agent (beginsFormatP_of_first hfirst)
  all_goals exact setPending_ok h agent rfl

/-! ### Every step -/

/-- Taking a word from the port. -/
theorem takeWord_inv {s : State} (h : Inv s) (agent : Agent) (w : Word) (rest : List Arrival) :
    Inv (takeWord agent w rest s) where
  inst := h.inst
  consistent := h.consistent
  bank := h.bank
  envelopes := h.envelopes
  phases := h.phases
  settings := h.settings
  derived := h.derived
  buffers := h.buffers
  status := h.status
  halted := h.halted
  pending := pendingAfter_ok h.pending agent w

theorem record_sound {s : State} (h : Sound s) (code : Code) : Sound (s.record code) :=
  h.settings ⟨rfl, rfl, rfl, rfl, rfl, rfl, rfl⟩ h.ranges h.derived

theorem record_inv {s : State} (h : Inv s) (code : Code) : Inv (s.record code) := by
  obtain ⟨sound, _, halted, pending⟩ := (inv_iff s).1 h
  exact (inv_iff _).2 ⟨record_sound sound code, statusOk_recordCode code _, halted, pending⟩

theorem exec_sound {i : Instr} {s t : State} (h : Sound s) (hi : exec i s = .next t) : Sound t := by
  rcases exec_cases hi with ⟨code, _, rfl⟩ | ⟨_, hn, ⟨_, ht⟩ | ⟨_, rfl⟩⟩
  · exact record_sound h code
  · exact tickRule_sound h ht
  · exact ruleOf_sound h hn

theorem exec_pending {i : Instr} {s t : State} (h : exec i s = .next t) : t.pending = s.pending := by
  obtain ⟨_, _, pending, _⟩ := onlyTickAdvances i s t h
  exact pending

/-- A command keeps the invariant. -/
theorem exec_inv {i : Instr} {s t : State} (h : Inv s) (hi : exec i s = .next t) : Inv t := by
  obtain ⟨sound, status, halted, pending⟩ := (inv_iff s).1 h
  exact (inv_iff t).2 ⟨exec_sound sound hi, exec_statusOk hi status, exec_haltedOk hi sound halted,
    (exec_pending hi).symm ▸ pending⟩

theorem settleAlloc_statusOk {code : Code} {attempt : Option Pool} {p : Pool} {st : Status} (h : statusOk st = true) :
    statusOk (settleAlloc code attempt p st).status = true := (settleAlloc_recorded code attempt p st).statusOk h

theorem resetOf_statusOk (cfg : Config) : statusOk (State.resetOf cfg).status = true := by
  have reverb : statusOk (resetReverb cfg (initialSettings cfg)).status = true := by
    unfold resetReverb
    split_ifs
    · rfl
    · exact settleAlloc_statusOk rfl
  show statusOk (resetDelay cfg _ _).status = true
  unfold resetDelay
  split_ifs
  · exact reverb
  · exact settleAlloc_statusOk reverb

/-- The invariant holds right after reset, for every parameter set that meets R8. -/
theorem resetOf_inv {cfg : Config} (hc : isInstance cfg = true) : Inv (State.resetOf cfg) :=
  (inv_iff _).2 ⟨resetOf_sound hc, resetOf_statusOk cfg, rfl, rfl⟩

/-- The invariant does not speak of what is still to arrive. -/
theorem withPort_inv {s : State} (h : Inv s) (port : List Arrival) : Inv (s.withPort port) :=
  ⟨h.inst, h.consistent, h.bank, h.envelopes, h.phases, h.settings, h.derived, h.buffers, h.status, h.halted, h.pending⟩

/-- Settles O57. -/
theorem stepKeepsInvariant : Obligations.StepKeepsInvariant := by
  intro s t hs h
  obtain ⟨_, ⟨_, rfl⟩ | ⟨rest, _, rfl⟩ | ⟨agent, w, rest, _, ⟨_, rfl⟩ | ⟨i, _, hi⟩ | ⟨_, rfl⟩⟩⟩ := step_cases h
  · exact hs
  · exact withPort_inv (resetOf_inv hs.inst) rest
  · exact takeWord_inv hs agent w rest
  · exact exec_inv (takeWord_inv hs agent w rest) hi
  · exact record_inv (takeWord_inv hs agent w rest) .illegalOpcode

end Sys2Proof.Machine
end

-- Proofs of the family 20_memory.md: every step answers.
section
/-! From a state with the invariant no buffer access leaves its region (20_memory.md R71), so every command and every step answers a
next state. Only a TICK touches the buffers: its filter and EQ keep them, its reverb and its delay find them ready. -/

namespace Sys2Proof.Machine

open Sys2Proof

/-! ### The effects of a TICK -/

/-- The buffers of the enabled effects are such that no access leaves its region. -/
structure EffectsReady (s : State) : Prop where
  reverb : s.settings.reverbEnable = true → reverbReady s.cfg s.pool
  delay : s.settings.delayEnable = true → delayReady s.cfg s.pool

/-- The buffers as the invariant has them are ready. -/
theorem BuffersOk.effectsReady {n : Word} {s : State} (h : BuffersOk n s) : EffectsReady s where
  reverb := fun hon => by
    have ha : s.pool.rev.allocated = true := h.reverb.trans hon
    obtain ⟨hbase, hidx⟩ := h.pool.reverb ha
    have total := h.pool.total
    rw [reverbWords, if_pos ha] at total
    have hzero : s.pool.rev.base.toNat = 0 := by rw [hbase]; rfl
    exact ⟨hidx, by omega⟩
  delay := fun hon => by
    obtain ⟨hend, hwp, _⟩ := h.pool.delay (h.delay.trans hon)
    exact ⟨hwp, hend.le⟩

theorem EffectsReady.tickVoices {s : State} (h : EffectsReady s) : EffectsReady (tickVoices s).2 := ⟨h.reverb, h.delay⟩

theorem EffectsReady.filterStage {s : State} (h : EffectsReady s) (m : F32) : EffectsReady (filterStage m s).2 := by
  unfold Machine.filterStage
  split <;> exact ⟨h.reverb, h.delay⟩

theorem EffectsReady.eqStage {s : State} (h : EffectsReady s) (m : F32) : EffectsReady (eqStage m s).2 := by
  unfold Machine.eqStage
  split <;> exact ⟨h.reverb, h.delay⟩

/-- The reverb's stage answers, and leaves the delay's buffer ready: it writes the reverb's own state and words alone. -/
theorem EffectsReady.reverbStage {s : State} (h : EffectsReady s) (m : F32) :
    ∃ m' s', reverbStage m s = .ok (m', s') ∧ EffectsReady s' := by
  unfold Machine.reverbStage
  split
  case isTrue hon =>
    obtain ⟨⟨y, p⟩, hrun⟩ := reverbRun_of_ready (x := s.settings) (fb := s.derived.reverbFb) (input := m) (h.reverb hon)
    have ran := reverbRun_ok hrun
    refine ⟨y, s.withPool p, by rw [hrun], fun _ => ran.ready (h.reverb hon), fun hd => ?_⟩
    rw [withPool_cfg, withPool_pool, delayReady, ran.dly]
    exact h.delay hd
  case isFalse => exact ⟨m, s, rfl, h⟩

/-- The delay's stage answers. -/
theorem EffectsReady.delayStage {s : State} (h : EffectsReady s) (m : F32) : ∃ r, delayStage m s = .ok r := by
  unfold Machine.delayStage
  split
  case isTrue hon =>
    rw [delayRun_of_ready (h.delay hon)]
    exact ⟨_, rfl⟩
  case isFalse => exact ⟨_, rfl⟩

/-- The four stages one after the other. -/
theorem EffectsReady.effectsChain {s : State} (h : EffectsReady s) (m : F32) : ∃ r, effectsChain m s = .ok r := by
  obtain ⟨m', s', hreverb, ready⟩ := ((h.filterStage m).eqStage (Machine.filterStage m s).1).reverbStage
    (Machine.eqStage (Machine.filterStage m s).1 (Machine.filterStage m s).2).1
  obtain ⟨r, hdelay⟩ := ready.delayStage m'
  exact ⟨r, by simp only [Machine.effectsChain, hreverb, hdelay]⟩

/-! ### Commands and steps -/

theorem tickRule_answers {s : State} (h : EffectsReady s) : ∃ t, tickRule s = .next t := by
  obtain ⟨⟨m, s'⟩, hchain⟩ := h.tickVoices.effectsChain (tickVoices s).1
  exact ⟨tickEmit m s', by simp only [tickRule, hchain]⟩

/-- The checks before a command stop nothing: a failed one records its code. -/
theorem checked_answers {exempt reserved nan : Bool} {body : State → Result} {s : State} (h : ∃ t, body s = .next t) :
    ∃ t, checked exempt reserved nan body s = .next t := by
  unfold checked reject
  split_ifs
  case neg => exact h
  all_goals exact ⟨_, rfl⟩

theorem exec_answers (i : Instr) {s : State} (h : EffectsReady s) : ∃ t, exec i s = .next t := by
  by_cases hi : isTick i
  · obtain ⟨a, b, c, rfl⟩ := (isTick_iff i).1 hi
    exact checked_answers (tickRule_answers h)
  · exact exec_total hi

/-- With a parameter set that meets R8 a step answers, whatever arrives. -/
theorem step_answers {s : State} (hc : isInstance s.cfg = true) (h : EffectsReady s) : ∃ t, step s = .next t := by
  have taken : ∀ agent w rest, EffectsReady (takeWord agent w rest s) := fun _ _ _ => ⟨h.reverb, h.delay⟩
  unfold step
  rw [if_pos hc]
  split
  case h_1 => exact ⟨_, rfl⟩
  case h_2 => exact ⟨_, rfl⟩
  case h_3 agent w rest _ =>
    split
    case h_1 => exact ⟨_, rfl⟩
    case h_2 i _ => exact exec_answers i (taken agent w rest)
    case h_3 => exact ⟨_, rfl⟩

/-- Settles O58. -/
theorem stepNeverStops : Obligations.StepNeverStops := by
  intro s h
  obtain ⟨sound, _⟩ := (inv_iff s).1 h
  exact step_answers h.inst sound.buffers.effectsReady

end Sys2Proof.Machine
end

-- Proofs of the family 20_memory.md: the command port.
section
/-! What a step takes from the command port (20_memory.md R83, R84; 30_encoding.md R99): nothing, or the word in front, whose agent
then waits for nothing if it completes a command. -/

namespace Sys2Proof.Machine

open Sys2Proof

/-! ### The words of one agent -/

@[simp] theorem agentWords_word_self (agent : Agent) (w : Word) (rest : List Arrival) :
    agentWords agent (.word agent w :: rest) = w :: agentWords agent rest := by
  simp [agentWords]

theorem agentWords_word_of_ne {agent a : Agent} (h : a ≠ agent) (w : Word) (rest : List Arrival) :
    agentWords agent (.word a w :: rest) = agentWords agent rest := by
  simp [agentWords, h]

/-- A step keeps the port at the end of a run, and otherwise takes the arrival in front. -/
theorem step_port {s t : State} (h : step s = .next t) :
    (s.port = [] ∧ t.port = []) ∨ ∃ a, s.port = a :: t.port := by
  obtain ⟨_, ⟨hp, rfl⟩ | ⟨rest, hp, rfl⟩ | ⟨agent, w, rest, hp, ⟨_, rfl⟩ | ⟨i, _, hi⟩ | ⟨_, rfl⟩⟩⟩ := step_cases h
  · exact .inl ⟨hp, hp⟩
  · exact .inr ⟨_, hp⟩
  · exact .inr ⟨_, hp⟩
  · obtain ⟨_, hport, _⟩ := onlyTickAdvances i _ t hi
    exact .inr ⟨_, hp.trans (by rw [hport]; rfl)⟩
  · exact .inr ⟨_, hp⟩

/-- Settles O9: the arrival in front is the agent's first word, another agent's word, or a reset. -/
theorem agentOrderKept : Obligations.AgentOrderKept := by
  intro s t agent h
  rcases step_port h with ⟨hs, ht⟩ | ⟨arrival, hs⟩
  · exact .inl (by rw [hs, ht])
  · rw [hs]
    cases arrival with
    | reset => exact .inl rfl
    | word a w =>
      by_cases ha : a = agent
      · exact .inr ⟨w, by rw [ha, agentWords_word_self]⟩
      · exact .inl (agentWords_word_of_ne ha w t.port).symm

/-! ### A command in front -/

/-- The word in front completes a command exactly when the decoder reads one from the agent's words. -/
theorem fetchWords_eq_command_iff (pending : Option Word) (w : Word) (i : Instr) :
    fetchWords pending w = .command i ↔ ∃ after, decode (pending.toList ++ [w]) = .ok (i, after) := by
  unfold fetchWords
  cases decode (pending.toList ++ [w]) with
  | ok r => simp [Prod.ext_iff]
  | error e => cases e <;> simp

/-- The agent of a completed command waits for nothing, the other agent as before. -/
theorem takeWord_of_command {s : State} {agent : Agent} {w : Word} {i : Instr}
    (h : fetchWords (pendingOf s.pending agent) w = .command i) (rest : List Arrival) :
    takeWord agent w rest s = { s with port := rest, pending := setPending s.pending agent none } := by
  simp only [takeWord, pendingAfter, h]
  rfl

theorem step_of_command {s : State} {agent : Agent} {w : Word} {rest : List Arrival} {i : Instr}
    (hc : isInstance s.cfg = true) (hp : s.port = .word agent w :: rest)
    (h : fetchWords (pendingOf s.pending agent) w = .command i) : step s = exec i (takeWord agent w rest s) := by
  simp only [step, hc, hp, h, if_true]

/-- Settles O7. -/
theorem stepRunsDecodedCommand : Obligations.StepRunsDecodedCommand := by
  intro s agent w rest i after hc hp hdecode
  have fetched := (fetchWords_eq_command_iff _ w i).2 ⟨after, hdecode⟩
  rw [← takeWord_of_command fetched rest]
  exact step_of_command hc hp fetched

end Sys2Proof.Machine
end

-- Proofs of the family 20_memory.md: buffer memory word by word.
section
/-! MemRead and MemWrite (20_memory.md R71), and that a canonical memory is fixed by what it reads as. -/

namespace Sys2Proof.Machine

open Sys2Proof

/-! ### Outside the region -/

theorem inRegion_eq_false_iff (memWords base length i : Nat) :
    inRegion memWords base length i = false ↔ length ≤ i ∨ memWords ≤ base + i := by
  rw [inRegion, decide_eq_false_iff_not]
  omega

section

variable {cfg : Config} {base length i : Nat}

theorem memRead_of_outside (h : length ≤ i ∨ cfg.memWords ≤ base + i) (p : Pool) :
    memRead cfg p base length i = .error .indexOutsideRegion := by
  simp [memRead, (inRegion_eq_false_iff _ _ _ _).2 h]

theorem memWrite_of_outside (h : length ≤ i ∨ cfg.memWords ≤ base + i) (p : Pool) (v : F32) :
    memWrite cfg p base length i v = .error .indexOutsideRegion := by
  simp [memWrite, (inRegion_eq_false_iff _ _ _ _).2 h]

end

/-! ### Canonical memories -/

@[simp] theorem readCell_head (a : Nat) (v : F32) (m : Memory) : readCell ((a, v) :: m) a = v := by
  simp [readCell]

/-- The words after the first listed one, from what the whole memory reads as. -/
theorem readCell_tail {a : Nat} {m : Memory} (h : cellsAbove a m) (v : F32) (b : Nat) :
    readCell m b = if b = a then 0 else readCell ((a, v) :: m) b := by
  split_ifs with hb
  · exact readCell_of_above h hb.le
  · simp [readCell, hb]

/-- The first word of a canonical memory is not above another memory's first word that reads the same there. -/
theorem head_le_of_readCell_eq {a b : Nat} {v w : F32} {m m' : Memory} (hv : v ≠ 0) (hb : cellsAbove b m')
    (h : readCell ((a, v) :: m) a = readCell ((b, w) :: m') a) : b ≤ a := by
  by_contra hlt
  have hne : a ≠ b := by omega
  have hzero : readCell ((b, w) :: m') a = 0 := by
    simp [readCell, hne, readCell_of_above hb (by omega : a ≤ b)]
  rw [readCell_head, hzero] at h
  exact hv h

/-- Two canonical memories that read alike are the same: their first words are at the same index, and so on down the list. -/
theorem Memory.eq_of_readCell_eq {m m' : Memory} (hm : Memory.wf m = true) (hm' : Memory.wf m' = true)
    (h : ∀ a, readCell m a = readCell m' a) : m = m' := by
  induction m generalizing m' with
  | nil =>
    cases m' with
    | nil => rfl
    | cons c rest =>
      obtain ⟨hw, _, _⟩ := (Memory.wf_cons c.1 c.2 rest).1 hm'
      exact absurd ((readCell_head c.1 c.2 rest).symm.trans (h c.1).symm) hw
  | cons c rest ih =>
    obtain ⟨a, v⟩ := c
    obtain ⟨hv, ha, hrest⟩ := (Memory.wf_cons a v rest).1 hm
    cases m' with
    | nil => exact absurd ((readCell_head a v rest).symm.trans (h a)) hv
    | cons d rest' =>
      obtain ⟨b, w⟩ := d
      obtain ⟨hw, hb, hrest'⟩ := (Memory.wf_cons b w rest').1 hm'
      obtain rfl : a = b := le_antisymm (head_le_of_readCell_eq hw ha (h b).symm) (head_le_of_readCell_eq hv hb (h a))
      have hvw : v = w := by simpa using h a
      have tails : rest = rest' := ih hrest hrest' fun x => by rw [readCell_tail ha v, readCell_tail hb w, h x]
      rw [hvw, tails]

/-- Settles O52. -/
theorem bufferMemory : Obligations.BufferMemory := by
  refine ⟨fun cfg p base length i v hi hmem => ⟨memRead_of_lt hi hmem, _, memWrite_of_lt hi hmem, fun hwf => ?_⟩,
    fun cfg p base length i v h => ⟨memRead_of_outside h p, memWrite_of_outside h p v⟩,
    fun m m' hm hm' h => Memory.eq_of_readCell_eq hm hm' h⟩
  exact ⟨writeCell_wf _ _ hwf, fun b => readCell_writeCell _ b v hwf⟩

end Sys2Proof.Machine
end

-- Proofs of the family 20_memory.md: words and frames on a medium.
section
/-! A word as bytes and back (20_memory.md R76), and a frame as a word (R77). -/

namespace Sys2Proof.Machine

open Sys2Proof

theorem bytesOfWord_toNat (w : Word) :
    (bytesOfWord w).map BitVec.toNat
      = [w.toNat % 256, w.toNat / 256 % 256, w.toNat / 65536 % 256, w.toNat / 16777216] := by
  have top : w.toNat / 16777216 < 256 := by omega
  simp [bytesOfWord, Nat.shiftRight_eq_div_pow, Nat.mod_eq_of_lt top]

/-- Word by word, four bytes each. -/
theorem wordsOfBytes_flatMap_bytesOfWord (ws : List Word) : wordsOfBytes (ws.flatMap bytesOfWord) = ws := by
  induction ws with
  | nil => rfl
  | cons w ws ih =>
    simp only [List.flatMap_cons, bytesOfWord, List.cons_append, List.nil_append, wordsOfBytes,
      wordOfBytes_bytesOfWord, List.cons.injEq, true_and]
    exact ih

/-- The low half of a word of two halves. -/
theorem extractLsb'_low_append (high low : BitVec 16) : (high ++ low).extractLsb' 0 16 = low := by
  ext i hi
  rw [BitVec.getElem_extractLsb', Nat.zero_add, BitVec.getLsbD_append, if_pos hi, BitVec.getLsbD_eq_getElem hi]

/-- The high half of a word of two halves. -/
theorem extractLsb'_high_append (high low : BitVec 16) : (high ++ low).extractLsb' 16 16 = high := by
  ext i hi
  rw [BitVec.getElem_extractLsb', getLsbD_append_of_le (Nat.le_add_right 16 i), Nat.add_sub_cancel_left,
    BitVec.getLsbD_eq_getElem hi]

theorem frameOf_digitalStereo {cfg : Config} (h : cfg.backend = .digitalStereo) (out : BitVec 16) :
    frameOf cfg out = .stereo out out := by
  simp [frameOf, h]

theorem frameOf_analogMono {cfg : Config} (h : cfg.backend = .analogMono) (out : BitVec 16) :
    frameOf cfg out = .mono out := by
  simp [frameOf, h]

/-- Settles O6. -/
theorem wordsAndFramesOnAMedium : Obligations.WordsAndFramesOnAMedium :=
  ⟨⟨bytesOfWord_toNat, wordsOfBytes_flatMap_bytesOfWord⟩,
    fun left right => ⟨extractLsb'_low_append right left, extractLsb'_high_append right left⟩,
    fun sample => ⟨extractLsb'_low_append 0 sample, extractLsb'_high_append 0 sample⟩,
    fun _ out => ⟨fun h => frameOf_digitalStereo h out, fun h => frameOf_analogMono h out⟩⟩

end Sys2Proof.Machine
end

-- Proofs of the family 20_memory.md: the lengths of the buffers.
section
/-! REVERB_LEN in both modes (45_reverb_delay.md R221; 20_memory.md R73) and DELAY_D (45_reverb_delay.md R233). -/

namespace Sys2Proof.Machine

open Sys2Proof

theorem reverbLengths_fixed {cfg : Config} (h : cfg.reverbLenMode = .fixed) (rate : Word) :
    reverbLengths cfg rate = nominalLengths := by
  simp only [reverbLengths, h]

theorem reverbLengths_scaled {cfg : Config} (h : cfg.reverbLenMode = .scaled) (rate : Word) :
    reverbLengths cfg rate = nominalLengths.map fun n => max 1 (n * rate.toNat / cfg.reverbRefRate) := by
  simp only [reverbLengths, h]

/-- A number held between 1 and a word is that word's size at most, so it is held as it is. -/
theorem ofInt_clamped_toNat (d : Int) {n : Word} (h : 1 ≤ n.toNat) :
    ((BitVec.ofInt 32 (min (max d 1) n.toNat)).toNat : Int) = min (max d 1) n.toNat := by
  have := n.isLt
  rw [BitVec.toNat_ofInt]
  omega

/-- Settles O29. -/
theorem bufferLengths : Obligations.BufferLengths := by
  refine ⟨fun cfg rate => ⟨fun h => ?_, fun h => ?_⟩, fun time rate delayN h => ofInt_clamped_toNat _ h⟩
  · rw [reverbLengths_fixed h]
    exact ⟨rfl, rfl⟩
  · rw [reverbLengths_scaled h, Vector.toList_map]
    rfl

end Sys2Proof.Machine
end

-- Proofs of the family 20_memory.md: the sine ROM.
section
/-! The sine ROM (20_memory.md R75): no entry of its first quarter is above the pattern of 1, and a word is an entry of that quarter
with a sign, which gives the symmetry and the range. -/

namespace Sys2Proof.Machine

open Sys2Proof

theorem sineQuarter_le : ∀ n ∈ sineQuarter, n ≤ 0x3F800000 := by
  simp only [sineQuarter, List.forall_mem_append]
  exact ⟨⟨⟨⟨by decide, by decide⟩, by decide⟩, by decide⟩, by decide⟩

theorem sineHalf_le (i : Nat) : sineHalf i ≤ 0x3F800000 := by
  unfold sineHalf
  generalize (if i ≤ 128 then i else 256 - i) = k
  rw [List.getD_eq_getElem?_getD]
  cases hk : sineQuarter[k]? with
  | none => exact Nat.zero_le _
  | some n => exact sineQuarter_le n (List.mem_of_getElem? hk)

/-- The half wave is symmetric about its middle. -/
theorem sineHalf_sub {i : Nat} (h : i ≤ 256) : sineHalf (256 - i) = sineHalf i := by
  have : (if 256 - i ≤ 128 then 256 - i else 256 - (256 - i)) = if i ≤ 128 then i else 256 - i := by
    split_ifs <;> omega
  rw [sineHalf, sineHalf, this]

/-- A word of the ROM is an entry of the half wave, negative in the second half. -/
theorem sineRom_eq_fPack (i : Nat) :
    sineRom i = if i ≤ 256 then fPack false (sineHalf i) else fPack true (sineHalf (i - 256)) := by
  simp [sineRom, fPack]

theorem fNeg_fPack (s : Bool) {m : Nat} (h : m < 2 ^ 31) : fNeg (fPack s m) = fPack (!s) m := by
  rw [← fPack_fBits (fNeg (fPack s m)), fSign_fNeg, fBits_fNeg, fSign_fPack s h, fBits_fPack s h]

theorem sineRom_antisymmetric {i : Nat} (h1 : 1 ≤ i) (h : i ≤ 255) : sineRom (512 - i) = fNeg (sineRom i) := by
  have hlt : sineHalf i < 2 ^ 31 := (sineHalf_le i).trans_lt (by norm_num)
  have hi : 512 - i - 256 = 256 - i := by omega
  rw [sineRom_eq_fPack, sineRom_eq_fPack, if_neg (by omega), if_pos (by omega), hi, sineHalf_sub (by omega),
    fNeg_fPack false hlt]
  rfl

theorem signed_bounds (s : Bool) (n : Nat) : -(n : Int) ≤ signed s n ∧ signed s n ≤ n := by
  cases s <;> simp only [signed, if_true, if_false, Bool.false_eq_true] <;> omega

/-- No magnitude up to that of 1 leaves [-1, 1], of either sign. -/
theorem fPack_inUnitRange (s : Bool) {m : Nat} (h : m ≤ 0x3F800000) :
    fInRange (fOfInt (-1)) (fPack s m) (fOfNat 1) = true := by
  have hlt : m < 2 ^ 31 := h.trans_lt (by norm_num)
  have hbits : fBits (fPack s m) = m := fBits_fPack s hlt
  have hnan : fIsNaN (fPack s m) = false := by
    rw [Bool.eq_false_iff, ne_eq, fIsNaN_iff, hbits]
    omega
  have hunits : fUnits (fPack s m) = signed s (patternUnits m) := by
    rw [fUnits_eq, fSign_fPack s hlt, fMagnitude_eq, hbits]
  obtain ⟨hneg, hpos⟩ := signed_bounds s (patternUnits m)
  have hone : patternUnits m ≤ fOneUnits := patternUnits_strictMono.monotone h
  have hlo : fUnits (fOfInt (-1)) = -((1 : Nat) * fOneUnits) := fUnits_fOfInt_neg (n := 1) (by norm_num) (by norm_num)
  refine fInRange_units.2 ⟨fIsNaN_fOfInt _, hnan, fOfNat_not_nan 1, ?_, ?_⟩
  · rw [hlo, hunits]
    omega
  · rw [fUnits_one, hunits]
    omega

theorem sineRom_inUnitRange (i : Nat) : fInRange (fOfInt (-1)) (sineRom i) (fOfNat 1) = true := by
  rw [sineRom_eq_fPack]
  split_ifs <;> exact fPack_inUnitRange _ (sineHalf_le _)

/-- Settles O41. -/
theorem sineRomShape : Obligations.SineRomShape :=
  ⟨by decide, by decide, by decide, by decide, fun _ h1 h => sineRom_antisymmetric h1 h,
    fun i _ => sineRom_inUnitRange i⟩

end Sys2Proof.Machine
end

-- Proofs of the family 30_encoding.md: the decoder and the encoder.
section
/-! The decoder and the encoder (30_encoding.md R96, R97, R99, R101, R103, R107): both go by the rows of R101, so a command's words
decode to it and a decoded word is encoded again bit by bit; and which opcodes have a row. -/

namespace Sys2Proof

/-! ### A command's words, decoded -/

theorem decode_wordP {op : BitVec 8} {f : BitVec 24 → Word → Instr} (h : formatPRow op.toNat = some f) (z : BitVec 24)
    (data : Word) (rest : List Word) : decode (wordP op z :: data :: rest) = .ok (f z data, rest) := by
  have hw : formatPRow (opcodeOf (wordP op z)).toNat = some f := by rw [opcodeOf_wordP, h]
  rw [decode_formatP hw, fieldZ_wordP]

theorem decode_wordA {op : BitVec 8} {f : BitVec 8 → BitVec 8 → BitVec 8 → Instr} (h : formatARow op.toNat = some f)
    (a b c : BitVec 8) (rest : List Word) : decode (wordA op a b c :: rest) = .ok (f a b c, rest) := by
  have hw : formatARow (opcodeOf (wordA op a b c)).toNat = some f := by rw [opcodeOf_wordA, h]
  rw [decode_formatA hw, fieldA_wordA, fieldB_wordA, fieldC_wordA]

/-- Settles O1: every command is the command of its opcode's row, in the format of that row. -/
theorem decodeOfEncode : Obligations.DecodeOfEncode := by
  intro i rest
  cases i with
  | setSampleRate | setLfoRate | setLfoDepth | setFilterCutoff | setFilterResonance | setEqBassGain | setEqMidGain
  | setEqTrebleGain | setReverbRoomSize | setReverbDamping | setReverbWet | setDelayTime | setDelayFeedback
  | setDelayMix => exact decode_wordP rfl _ _ rest
  | nop | tick | noteOn | noteOff | allOff | setMasterVolume | setWaveform | setVoiceCount | setLfoEnable | setLfoVibrato
  | setLfoTremolo | setFilterEnable | setFilterType | setEqEnable | setReverbEnable | setDelayEnable | readReg
  | clearStatus | shutdown => exact decode_wordA rfl _ _ _ rest

/-- Settles O5: each of the words is the encoding of its command. -/
theorem workedEncodings : Obligations.WorkedEncodings :=
  ⟨decodeOfEncode (.tick 0 0 0) [], decodeOfEncode (.noteOn 0 127 69) [], decodeOfEncode (.noteOff 0 0 69) [],
    decodeOfEncode (.setMasterVolume 0 0 128) [], decodeOfEncode (.setSampleRate 0 28160) [],
    decodeOfEncode (.setLfoEnable 0 0 1) [], decodeOfEncode (.setFilterResonance 0 0x3F7D70A4) [],
    decodeOfEncode (.setEqBassGain 0 0xC1400000) [], decodeOfEncode (.setReverbWet 0 0x3F000000) [],
    decodeOfEncode (.setDelayTime 0 0x437A0000) [], decodeOfEncode (.readReg 0 0 1) []⟩

/-! ### A decoded command, encoded -/

theorem encode_of_formatPRow {w : Word} {f : BitVec 24 → Word → Instr} (h : formatPRow (opcodeOf w).toNat = some f)
    (data : Word) : encode (f (fieldZ w) data) = [w, data] := by
  rw [formatPRow_encode h, BitVec.ofNat_toNat, BitVec.setWidth_eq, wordP_fields]

theorem encode_of_formatARow {w : Word} {f : BitVec 8 → BitVec 8 → BitVec 8 → Instr}
    (h : formatARow (opcodeOf w).toNat = some f) : encode (f (fieldA w) (fieldB w) (fieldC w)) = [w] := by
  rw [formatARow_encode h, BitVec.ofNat_toNat, BitVec.setWidth_eq, wordA_fields]

/-- What the decoder can read: a format-P word and its data word, or a format-A word. -/
theorem decode_cases {ws : List Word} {i : Instr} {rest : List Word} (h : decode ws = .ok (i, rest)) :
    (∃ w data f, ws = w :: data :: rest ∧ formatPRow (opcodeOf w).toNat = some f ∧ i = f (fieldZ w) data) ∨
      ∃ w f, ws = w :: rest ∧ formatARow (opcodeOf w).toNat = some f ∧ i = f (fieldA w) (fieldB w) (fieldC w) := by
  unfold decode at h
  split at h
  · cases h
  · next w ws =>
    split at h
    · next f hf =>
      split at h
      · cases h
      · cases h
        exact .inl ⟨w, _, f, rfl, hf, rfl⟩
    · split at h
      · next f hf =>
        cases h
        exact .inr ⟨w, f, rfl, hf, rfl⟩
      · cases h

/-- Settles O2: each of the two forms of a decoded command is encoded as the words it came from. -/
theorem encodeOfDecode : Obligations.EncodeOfDecode := by
  intro ws i rest h
  obtain ⟨w, data, f, rfl, hf, rfl⟩ | ⟨w, f, rfl, hf, rfl⟩ := decode_cases h
  · rw [encode_of_formatPRow hf]
    rfl
  · rw [encode_of_formatARow hf]
    rfl

/-! ### Which opcodes have a row -/

theorem formatPRow_isSome_iff (n : Nat) :
    (formatPRow n).isSome = true ↔
      n ∈ [0x08, 0x13, 0x14, 0x22, 0x23, 0x31, 0x32, 0x33, 0x41, 0x42, 0x43, 0x51, 0x52, 0x53] := by
  unfold formatPRow
  split <;> simp_all

theorem formatARow_isSome_iff (n : Nat) :
    (formatARow n).isSome = true ↔
      n ∈ [0x00, 0x01, 0x02, 0x03, 0x04, 0x05, 0x06, 0x07, 0x10, 0x11, 0x12, 0x20, 0x21, 0x30, 0x40, 0x50, 0xF0, 0xF1,
        0xF2] := by
  unfold formatARow
  split <;> simp_all

theorem opcodeUndefined_iff_rows (w : Word) :
    opcodeUndefined w = true ↔ formatPRow (opcodeOf w).toNat = none ∧ formatARow (opcodeOf w).toNat = none := by
  simp [opcodeUndefined]

/-- The opcodes without a row are those of R103's ranges. -/
theorem opcodeUndefined_iff (w : Word) :
    opcodeUndefined w = true ↔
      (let op := (opcodeOf w).toNat
       0x09 ≤ op ∧ op ≤ 0x0F ∨ 0x15 ≤ op ∧ op ≤ 0x1F ∨ 0x24 ≤ op ∧ op ≤ 0x2F ∨ 0x34 ≤ op ∧ op ≤ 0x3F
         ∨ 0x44 ≤ op ∧ op ≤ 0x4F ∨ 0x54 ≤ op ∧ op ≤ 0xEF ∨ 0xF3 ≤ op ∧ op ≤ 0xFF) := by
  have hop : (opcodeOf w).toNat < 256 := (opcodeOf w).isLt
  rw [opcodeUndefined_iff_rows, ← Option.not_isSome_iff_eq_none, ← Option.not_isSome_iff_eq_none, formatPRow_isSome_iff,
    formatARow_isSome_iff]
  generalize (opcodeOf w).toNat = op at hop ⊢
  simp only [List.mem_cons, List.not_mem_nil, or_false]
  omega

theorem decode_undefined {w : Word} (h : opcodeUndefined w = true) (rest : List Word) :
    decode (w :: rest) = .error (.undefinedOpcode (opcodeOf w)) := by
  obtain ⟨hp, ha⟩ := (opcodeUndefined_iff_rows w).1 h
  simp only [decode, hp, ha]

end Sys2Proof
end

-- Proofs of the family 30_encoding.md: a word at the command port.
section
/-! What a word is to the agent that sends it (30_encoding.md R99, R103): with nothing waiting its opcode's row alone says whether it
waits, is a command or is undefined; after a waiting first word it is that command's data. -/

namespace Sys2Proof.Machine

open Sys2Proof

/-! ### Classifying a word -/

theorem beginsFormatP_iff (w : Word) : beginsFormatP w = true ↔ ∃ f, formatPRow (opcodeOf w).toNat = some f :=
  Option.isSome_iff_exists

theorem fetchWords_first {w : Word} (h : beginsFormatP w = true) : fetchWords none w = .first := by
  obtain ⟨f, hf⟩ := (beginsFormatP_iff w).1 h
  simp [fetchWords, decode, hf]

theorem fetchWords_undefined {w : Word} (h : opcodeUndefined w = true) : fetchWords none w = .undefined := by
  simp [fetchWords, decode_undefined h]

/-- A word that has a row and begins no two-word command is a command of its own. -/
theorem fetchWords_oneWord {w : Word} (hp : beginsFormatP w = false) (hu : opcodeUndefined w = false) :
    ∃ i, encode i = [w] ∧ fetchWords none w = .command i := by
  have hnone : formatPRow (opcodeOf w).toNat = none := by
    simpa [beginsFormatP] using hp
  have hrow : formatARow (opcodeOf w).toNat ≠ none := fun ha => by
    simp [(opcodeUndefined_iff_rows w).2 ⟨hnone, ha⟩] at hu
  obtain ⟨f, hf⟩ := Option.ne_none_iff_exists'.1 hrow
  exact ⟨_, encode_of_formatARow hf, (fetchWords_eq_command_iff none w _).2 ⟨[], decode_formatA hf []⟩⟩

/-- The word after a waiting first word is its data word, whatever its value. -/
theorem fetchWords_twoWords {w0 : Word} (h : beginsFormatP w0 = true) (w : Word) :
    ∃ i, encode i = [w0, w] ∧ fetchWords (some w0) w = .command i := by
  obtain ⟨f, hf⟩ := (beginsFormatP_iff w0).1 h
  exact ⟨_, encode_of_formatPRow hf w, (fetchWords_eq_command_iff (some w0) w _).2 ⟨[], decode_formatP hf w []⟩⟩

/-! ### The step that takes it -/

theorem step_of_first {s : State} {agent : Agent} {w : Word} {rest : List Arrival} (hc : isInstance s.cfg = true)
    (hp : s.port = .word agent w :: rest) (h : fetchWords (pendingOf s.pending agent) w = .first) :
    step s = .next { s with port := rest, pending := setPending s.pending agent (some w) } := by
  simp only [step, hc, hp, h, if_true, takeWord, pendingAfter]
  rfl

theorem step_of_undefined {s : State} {agent : Agent} {w : Word} {rest : List Arrival} (hc : isInstance s.cfg = true)
    (hp : s.port = .word agent w :: rest) (h : fetchWords (pendingOf s.pending agent) w = .undefined) :
    step s = .next
      ((State.withPending (s.withPort rest) (setPending s.pending agent none)).record .illegalOpcode) := by
  simp only [step, hc, hp, h, if_true, takeWord, pendingAfter, undefinedCommand, reject]

/-- A word that completes a command is taken, and the command executes. -/
theorem step_runs_encoded {s : State} {agent : Agent} {w : Word} {rest : List Arrival} {ws : List Word}
    (hc : isInstance s.cfg = true) (hp : s.port = .word agent w :: rest)
    (h : ∃ i, encode i = ws ∧ fetchWords (pendingOf s.pending agent) w = .command i) :
    ∃ i, encode i = ws ∧ step s = exec i { s with port := rest, pending := setPending s.pending agent none } := by
  obtain ⟨i, hi, fetched⟩ := h
  exact ⟨i, hi, by rw [step_of_command hc hp fetched, takeWord_of_command fetched]⟩

/-- Settles O3: the row of the word decides, and after a waiting first word that word's row. -/
theorem firstWordDecidesLength : Obligations.FirstWordDecidesLength := by
  refine ⟨fun w => formatPRow_isSome_iff _, fun s agent w rest hc hp => ⟨?_, ?_, ?_, ?_⟩⟩
  · intro idle hw
    exact step_of_first hc hp (by rw [idle, fetchWords_first hw])
  · intro idle hw hu
    exact step_runs_encoded hc hp (by rw [idle]; exact fetchWords_oneWord hw hu)
  · intro idle _ hu
    exact step_of_undefined hc hp (by rw [idle, fetchWords_undefined hu])
  · intro w0 waiting hw0
    exact step_runs_encoded hc hp (by rw [waiting]; exact fetchWords_twoWords hw0 w)

@[simp] theorem setPending_pendingOf (p : Pending) (agent : Agent) : setPending p agent (pendingOf p agent) = p := by
  cases agent <;> rfl

/-- A word with an undefined opcode, from an agent with nothing waiting, changes the port and STATUS alone. -/
theorem step_of_undefinedOpcode {s : State} {agent : Agent} {w : Word} {rest : List Arrival}
    (hc : isInstance s.cfg = true) (hp : s.port = .word agent w :: rest) (idle : pendingOf s.pending agent = none)
    (hu : opcodeUndefined w = true) : step s = .next (State.record { s with port := rest } .illegalOpcode) := by
  rw [step_of_undefined hc hp (by rw [idle, fetchWords_undefined hu]), ← idle, setPending_pendingOf]
  rfl

/-- Settles O4; the all-zeros word is the encoding of NOP. -/
theorem undefinedOpcodes : Obligations.UndefinedOpcodes :=
  ⟨opcodeUndefined_iff, fun _ rest h => decode_undefined h rest,
    fun _ _ _ _ hc hp idle hu => step_of_undefinedOpcode hc hp idle hu, by decide, decodeOfEncode (.nop 0 0 0) []⟩

end Sys2Proof.Machine
end

-- Proofs of the family 30_encoding.md: the checks before a command.
section
/-! Every command stands behind the checks 2 to 4 of 60_exceptions.md R290, with its own entry of R291's list, its own reserved fields
(30_encoding.md R102) and its own F operand. -/

namespace Sys2Proof.Machine

open Sys2Proof

/-! ### The reserved fields, form by form -/

theorem reservedABC_eq (a b c : BitVec 8) : reservedABC a b c = !(a == 0 && b == 0 && c == 0) := by
  simp [reservedABC, bne]

theorem reservedAB_eq (a b : BitVec 8) : reservedAB a b = !(a == 0 && b == 0) := by
  simp [reservedAB, bne]

theorem reservedEnable_eq (a b c : BitVec 8) :
    reservedEnable a b c = !(a == 0 && b == 0 && c.extractLsb' 1 7 == 0) := by
  simp [reservedEnable, bne]

/-! ### The checks -/

/-- A command's own rule, behind the checks. -/
def bodyOf : Instr → State → Result
  | .tick _ _ _ => tickRule
  | i => fun s => .next (ruleOf i s)

/-- Every command is the checks on its own fields, then its own rule. -/
theorem exec_eq_checked (i : Instr) (s : State) :
    exec i s = checked (runsWhileHalted i) (!reservedZero i) ((floatOperand i).any fIsNaN) (bodyOf i) s := by
  cases i with
  | nop | tick | allOff | clearStatus | shutdown =>
    rw [reservedZero, ← reservedABC_eq]
    rfl
  | noteOff | setMasterVolume | setWaveform | setVoiceCount | setFilterType | readReg =>
    rw [reservedZero, ← reservedAB_eq]
    rfl
  | setLfoEnable | setLfoVibrato | setLfoTremolo | setFilterEnable | setEqEnable | setReverbEnable | setDelayEnable =>
    rw [reservedZero, ← reservedEnable_eq]
    rfl
  | noteOn | setSampleRate | setLfoRate | setLfoDepth | setFilterCutoff | setFilterResonance | setEqBassGain
  | setEqMidGain | setEqTrebleGain | setReverbRoomSize | setReverbDamping | setReverbWet | setDelayTime
  | setDelayFeedback | setDelayMix => rfl

theorem checked_halted {reserved nan : Bool} {body : State → Result} {s : State} (h : s.halted = true) :
    checked false reserved nan body s = .next (s.record .halted) := by
  simp [checked, reject, h]

theorem checked_reservedField {exempt nan : Bool} {body : State → Result} {s : State}
    (h : s.halted = false ∨ exempt = true) : checked exempt true nan body s = .next (s.record .reservedField) := by
  rcases h with h | h <;> simp [checked, reject, h]

theorem checked_nanOperand {exempt : Bool} {body : State → Result} {s : State}
    (h : s.halted = false ∨ exempt = true) : checked exempt false true body s = .next (s.record .nanOperand) := by
  rcases h with h | h <;> simp [checked, reject, h]

/-- Settles O10, check by check. -/
theorem checksInOrder : Obligations.ChecksInOrder := by
  intro i s
  rw [exec_eq_checked]
  refine ⟨?_, ?_, ?_⟩
  · intro halted hruns
    rw [hruns, checked_halted halted]
  · intro past hreserved
    rw [hreserved]
    exact checked_reservedField past
  · rintro past hreserved ⟨x, hx, hnan⟩
    rw [hreserved, hx, Option.any_some, hnan]
    exact checked_nanOperand past

end Sys2Proof.Machine
end

-- Proofs of the family 41_envelope.md: the generator's values and the life of a note.
section
/-! The envelope (41_envelope.md R126 to R137): one call by the state it starts from, the states that a note goes through call by
call, and the ramps at their ends and between them. -/

namespace Sys2Proof.Machine

open Sys2Proof

/-! ### One call, by state -/

theorem envNoteOff_of_ne_off {e : Env} (h : e.state ≠ .off) : envNoteOff e = { state := .release, counter := 0 } := if_neg h

theorem envNoteOff_of_off {e : Env} (h : e.state = .off) : envNoteOff e = e := if_pos h

theorem envGet_attack (cfg : Config) (n : Word) :
    envGet cfg { state := .attack, counter := n } =
      (attackValue cfg (n + 1), if cfg.attackSamples ≤ (n + 1).toNat then { state := .decay, counter := 0 }
        else { state := .attack, counter := n + 1 }) := rfl

theorem envGet_decay (cfg : Config) (n : Word) :
    envGet cfg { state := .decay, counter := n } =
      (decayValue cfg (n + 1), if cfg.decaySamples ≤ (n + 1).toNat then { state := .sustain, counter := 0 }
        else { state := .decay, counter := n + 1 }) := rfl

theorem envGet_sustain (cfg : Config) (n : Word) :
    envGet cfg { state := .sustain, counter := n } = (fOfNat cfg.sustainLevel, { state := .sustain, counter := n + 1 }) := rfl

theorem envGet_off (cfg : Config) (n : Word) :
    envGet cfg { state := .off, counter := n } = (fOfNat 0, { state := .off, counter := n + 1 }) := rfl

/-- A release call past the last one of the ramp. -/
theorem envGet_release_ended {cfg : Config} {n : Word} (h : cfg.releaseSamples < (n + 1).toNat) :
    envGet cfg { state := .release, counter := n } = (fOfNat 0, { state := .off, counter := 0 }) := if_pos h

/-- A release call on the ramp. -/
theorem envGet_release {cfg : Config} {n : Word} (h : (n + 1).toNat ≤ cfg.releaseSamples) :
    envGet cfg { state := .release, counter := n } = (releaseValue cfg (n + 1), { state := .release, counter := n + 1 }) :=
  if_neg (not_lt.2 h)

section

variable {cfg : Config} (c : Word)

theorem attackValue_real (h : cfg.envArith = .real) : attackValue cfg c = attackReal cfg c := by simp only [attackValue, h]

theorem decayValue_real (h : cfg.envArith = .real) : decayValue cfg c = decayReal cfg c := by simp only [decayValue, h]

theorem releaseValue_real (h : cfg.envArith = .real) : releaseValue cfg c = releaseReal cfg c := by simp only [releaseValue, h]

theorem attackValue_integer (h : cfg.envArith = .integer) : attackValue cfg c = attackInteger cfg c := by
  simp only [attackValue, h]

theorem decayValue_integer (h : cfg.envArith = .integer) : decayValue cfg c = decayInteger cfg c := by
  simp only [decayValue, h]

theorem releaseValue_integer (h : cfg.envArith = .integer) : releaseValue cfg c = releaseInteger cfg c := by
  simp only [releaseValue, h]

end

/-! ### The integer ramps -/

/-- A difference of u64 that does not go below 0 is that of the numbers. -/
theorem subU64_of_le {a b : Nat} (h : b ≤ a) (ha : a < 2 ^ 64) : subU64 a b = a - b := by
  have hle : BitVec.ofNat 64 b ≤ BitVec.ofNat 64 a := by
    rw [BitVec.le_def, BitVec.toNat_ofNat, BitVec.toNat_ofNat, Nat.mod_eq_of_lt ha, Nat.mod_eq_of_lt (h.trans_lt ha)]
    exact h
  rw [subU64, BitVec.toNat_sub_of_le hle, BitVec.toNat_ofNat, BitVec.toNat_ofNat, Nat.mod_eq_of_lt ha,
    Nat.mod_eq_of_lt (h.trans_lt ha)]

/-- No further than its last call, a ramp has moved by at most its height. -/
theorem ramp_div_le {height c n : Nat} (h : c ≤ n) : height * c / n ≤ height :=
  Nat.div_le_of_le_mul ((Nat.mul_le_mul_left height h).trans_eq (Nat.mul_comm height n))

theorem decayInteger_eq {cfg : Config} {c : Word} (hc : c.toNat ≤ cfg.decaySamples) :
    decayInteger cfg c = fOfNat (255 - (255 - cfg.sustainLevel) * c.toNat / cfg.decaySamples) := by
  rw [decayInteger, subU64_of_le ((ramp_div_le hc).trans (Nat.sub_le 255 _)) (by norm_num)]

theorem releaseInteger_eq {cfg : Config} {c : Word} (hs : cfg.sustainLevel ≤ 255) (hc : c.toNat ≤ cfg.releaseSamples) :
    releaseInteger cfg c = fOfNat (cfg.sustainLevel - cfg.sustainLevel * c.toNat / cfg.releaseSamples) := by
  rw [releaseInteger, subU64_of_le (ramp_div_le hc) (hs.trans_lt (by norm_num))]

/-- Settles O32. -/
theorem envelopeOperations : Obligations.EnvelopeOperations := by
  refine ⟨⟨fun _ => rfl, fun _ => envNoteOff_of_ne_off, fun _ => envNoteOff_of_off⟩, fun cfg n => ?_⟩
  dsimp only
  rw [envGet_attack, envGet_decay, envGet_sustain, envGet_off]
  refine ⟨rfl, rfl, fun hend => by rw [envGet_release_ended hend], fun hreal => ⟨?_, ?_, fun hc => ?_⟩,
    fun hint hs => ⟨?_, fun _ hc => ?_, fun _ hc => ?_⟩⟩
  · exact attackValue_real _ hreal
  · exact decayValue_real _ hreal
  · rw [envGet_release hc]
    exact releaseValue_real _ hreal
  · exact attackValue_integer _ hint
  · exact (decayValue_integer _ hint).trans (decayInteger_eq hc)
  · rw [envGet_release hc]
    exact (releaseValue_integer _ hint).trans (releaseInteger_eq hs hc)

/-! ### The life of a note -/

/-- The envelope n calls after a note-on. -/
def envAfterNoteOn (cfg : Config) (n : Nat) : Env :=
  if n < cfg.attackSamples then { state := .attack, counter := BitVec.ofNat 32 n }
  else if n < cfg.attackSamples + cfg.decaySamples then { state := .decay, counter := BitVec.ofNat 32 (n - cfg.attackSamples) }
  else { state := .sustain, counter := BitVec.ofNat 32 (n - cfg.attackSamples - cfg.decaySamples) }

/-- The envelope n calls after a note-off of a sounding voice, as far as the call that reaches OFF. -/
def envAfterNoteOff (cfg : Config) (n : Nat) : Env :=
  if n ≤ cfg.releaseSamples then { state := .release, counter := BitVec.ofNat 32 n } else { state := .off, counter := 0 }

theorem ofNat_add_one (n : Nat) : BitVec.ofNat 32 n + 1 = BitVec.ofNat 32 (n + 1) := (BitVec.ofNat_add n 1).symm

/-- Every phase of the envelope lasts at most 2^24 samples. -/
theorem samples_le {cfg : Config} (hc : isInstance cfg = true) :
    cfg.attackSamples ≤ 2 ^ 24 ∧ cfg.decaySamples ≤ 2 ^ 24 ∧ cfg.releaseSamples ≤ 2 ^ 24 := by
  obtain ⟨_, _, samples, _⟩ := (isInstance_iff cfg).1 hc
  simp only [List.forall_mem_cons] at samples
  omega

/-- A number of samples is a u32. -/
theorem toNat_ofNat_samples {n : Nat} (h : n ≤ 2 ^ 24 + 1) : (BitVec.ofNat 32 n).toNat = n :=
  Nat.mod_eq_of_lt (by omega)

theorem envGet_envAfterNoteOn {cfg : Config} (hc : isInstance cfg = true) (n : Nat) :
    (envGet cfg (envAfterNoteOn cfg n)).2 = envAfterNoteOn cfg (n + 1) := by
  obtain ⟨_, hd, _⟩ := samples_pos hc
  obtain ⟨ha24, hd24, _⟩ := samples_le hc
  unfold envAfterNoteOn
  rcases lt_or_ge n cfg.attackSamples with hn | hn
  · -- an ATTACK call, the last of them or not
    rw [if_pos hn, envGet_attack, ofNat_add_one, toNat_ofNat_samples (by omega)]
    rcases Nat.lt_or_ge (n + 1) cfg.attackSamples with hnext | hnext
    · rw [if_neg (not_le.2 hnext), if_pos hnext]
    · rw [if_pos hnext, if_neg (not_lt.2 hnext), if_pos (by omega), Nat.sub_eq_zero_of_le (by omega)]
      rfl
  rw [if_neg (not_lt.2 hn), if_neg (show ¬ n + 1 < cfg.attackSamples by omega)]
  rcases Nat.lt_or_ge n (cfg.attackSamples + cfg.decaySamples) with hn' | hn'
  · -- a DECAY call, the last of them or not
    rw [if_pos hn', envGet_decay, ofNat_add_one, toNat_ofNat_samples (by omega), ← Nat.sub_add_comm hn]
    rcases Nat.lt_or_ge (n + 1) (cfg.attackSamples + cfg.decaySamples) with hnext | hnext
    · rw [if_neg (by omega), if_pos hnext]
    · rw [if_pos (by omega), if_neg (not_lt.2 hnext), Nat.sub_eq_zero_of_le (m := cfg.decaySamples) (by omega)]
      rfl
  · rw [if_neg (not_lt.2 hn'), if_neg (by omega), envGet_sustain, ofNat_add_one,
      show n - cfg.attackSamples - cfg.decaySamples + 1 = n + 1 - cfg.attackSamples - cfg.decaySamples by omega]

theorem envGet_envAfterNoteOff {cfg : Config} (hc : isInstance cfg = true) {n : Nat} (hn : n ≤ cfg.releaseSamples) :
    (envGet cfg (envAfterNoteOff cfg n)).2 = envAfterNoteOff cfg (n + 1) := by
  obtain ⟨_, _, hr24⟩ := samples_le hc
  have hcounter : (BitVec.ofNat 32 n + 1).toNat = n + 1 := by rw [ofNat_add_one, toNat_ofNat_samples (by omega)]
  unfold envAfterNoteOff
  rw [if_pos hn]
  rcases Nat.lt_or_ge cfg.releaseSamples (n + 1) with hnext | hnext
  · rw [envGet_release_ended (by rwa [hcounter]), if_neg (not_le.2 hnext)]
  · rw [envGet_release (by rwa [hcounter]), if_pos hnext, ofNat_add_one]

theorem iterate_envGet_noteOn {cfg : Config} (hc : isInstance cfg = true) (e : Env) (n : Nat) :
    (fun e => (envGet cfg e).2)^[n] (envNoteOn e) = envAfterNoteOn cfg n := by
  induction n with
  | zero => exact (if_pos (samples_pos hc).1).symm
  | succ n ih => rw [Function.iterate_succ_apply', ih, envGet_envAfterNoteOn hc]

theorem iterate_envGet_noteOff {cfg : Config} (hc : isInstance cfg = true) {e : Env} (he : e.state ≠ .off) {n : Nat}
    (hn : n ≤ cfg.releaseSamples + 1) : (fun e => (envGet cfg e).2)^[n] (envNoteOff e) = envAfterNoteOff cfg n := by
  induction n with
  | zero => exact (envNoteOff_of_ne_off he).trans (if_pos (Nat.zero_le _)).symm
  | succ n ih =>
    rw [Function.iterate_succ_apply', ih (Nat.le_of_succ_le hn), envGet_envAfterNoteOff hc (Nat.le_of_succ_le_succ hn)]

/-- Settles O33, by induction on the number of calls. -/
theorem noteLifetime : Obligations.NoteLifetime := fun _ hc =>
  ⟨iterate_envGet_noteOn hc, fun _ _ he hn => iterate_envGet_noteOff hc he hn⟩

/-! ### The ends of the REAL ramps -/

/-- A ramp whose last product is exact has moved by its height at its last call. -/
theorem ramp_at_end {height n : Nat} (hh : height ≤ 255) (h1 : 1 ≤ n) (hn : n ≤ 2 ^ 24) (h : height * n ≤ 2 ^ 24) :
    fDiv (fMul (fOfNat height) (fOfNat n)) (fOfNat n) = fOfNat height := by
  have hh24 : height ≤ 2 ^ 24 := hh.trans (by norm_num)
  rw [fMul_fOfNat hh24 hn h, fDiv_fOfNat hh24 h1 hn h]

theorem attackReal_at_end {cfg : Config} (h1 : 1 ≤ cfg.attackSamples) (hn : cfg.attackSamples ≤ 2 ^ 24)
    (h : 255 * cfg.attackSamples ≤ 2 ^ 24) : attackReal cfg (BitVec.ofNat 32 cfg.attackSamples) = fOfNat 255 := by
  have hproduct : fMul (fOfNat cfg.attackSamples) (fOfNat 255) = fOfNat (255 * cfg.attackSamples) := by
    rw [fMul_fOfNat hn (by norm_num) (by omega), Nat.mul_comm]
  rw [attackReal, toNat_ofNat_samples (by omega), hproduct, fDiv_fOfNat (by norm_num) h1 hn h]
  exact ite_self _

theorem decayReal_at_end {cfg : Config} (hs : cfg.sustainLevel ≤ 255) (h1 : 1 ≤ cfg.decaySamples)
    (hn : cfg.decaySamples ≤ 2 ^ 24) (h : (255 - cfg.sustainLevel) * cfg.decaySamples ≤ 2 ^ 24) :
    decayReal cfg (BitVec.ofNat 32 cfg.decaySamples) = fOfNat cfg.sustainLevel := by
  rw [decayReal, toNat_ofNat_samples (by omega), ramp_at_end (Nat.sub_le _ _) h1 hn h,
    fSub_fOfNat (by norm_num) (Nat.sub_le _ _), Nat.sub_sub_self hs]

theorem releaseReal_at_end {cfg : Config} (hs : cfg.sustainLevel ≤ 255) (h1 : 1 ≤ cfg.releaseSamples)
    (hn : cfg.releaseSamples ≤ 2 ^ 24) (h : cfg.sustainLevel * cfg.releaseSamples ≤ 2 ^ 24) :
    releaseReal cfg (BitVec.ofNat 32 cfg.releaseSamples) = fOfNat 0 := by
  rw [releaseReal, toNat_ofNat_samples (by omega), ramp_at_end hs h1 hn h,
    fSub_fOfNat (hs.trans (by norm_num)) le_rfl, Nat.sub_self]

theorem sustainLevel_le {cfg : Config} (hc : isInstance cfg = true) : cfg.sustainLevel ≤ 255 := by
  obtain ⟨_, _, _, hs, _⟩ := (isInstance_iff cfg).1 hc
  exact hs

/-- Settles O34. -/
theorem envelopeBoundaryValues : Obligations.EnvelopeBoundaryValues := by
  intro cfg hc
  have hs := sustainLevel_le hc
  obtain ⟨ha, hd, hr⟩ := samples_pos hc
  obtain ⟨ha24, hd24, hr24⟩ := samples_le hc
  exact ⟨attackReal_at_end ha ha24, decayReal_at_end hs hd hd24, releaseReal_at_end hs hr hr24⟩

/-! ### Every value lies in [0, 255] -/

/-- An integer level lies in the range. -/
theorem fOfNat_inEnvRange {k : Nat} (h : k ≤ 255) : fInRange (fOfNat 0) (fOfNat k) (fOfNat 255) = true :=
  fInRange_units.2 ⟨fOfNat_not_nan 0, fOfNat_not_nan k, fOfNat_not_nan 255,
    fUnits_fOfNat_le (h.trans (by norm_num)) (Nat.zero_le k), fUnits_fOfNat_le (by norm_num) h⟩

/-- 2^48, at or above every product of two integers of at most 24 bits. -/
theorem fUnits_two_pow_48 : fUnits 0x57800000 = ((2 ^ 24 * 2 ^ 24 * fOneUnits : Nat) : Int) := by decide

/-- A product of two integers of at most 24 bits, rounded or not, is finite and not negative. -/
theorem fMul_fOfNat_bounds {a b : Nat} (ha : a ≤ 2 ^ 24) (hb : b ≤ 2 ^ 24) :
    fIsFinite (fMul (fOfNat a) (fOfNat b)) = true ∧ 0 ≤ fUnits (fMul (fOfNat a) (fOfNat b)) := by
  obtain ⟨ua, fa⟩ := fOfNat_units ha
  obtain ⟨ub, fb⟩ := fOfNat_units hb
  have hlow : fUnits (fOfNat 0) ≤ fUnits (fMul (fOfNat a) (fOfNat b)) := by
    refine le_fMul fa fb (fOfNat_not_nan 0) ?_
    rw [fUnits_zero, zero_mul]
    exact mul_nonneg (fUnits_fOfNat_nonneg a) (fUnits_fOfNat_nonneg b)
  have hhigh : fUnits (fMul (fOfNat a) (fOfNat b)) ≤ fUnits 0x57800000 := by
    refine fMul_le fa fb (by decide) ?_
    rw [ua, ub, fUnits_two_pow_48]
    simp only [← Nat.cast_mul, Int.ofNat_le]
    calc a * fOneUnits * (b * fOneUnits) = a * b * fOneUnits * fOneUnits := by ring
      _ ≤ 2 ^ 24 * 2 ^ 24 * fOneUnits * fOneUnits :=
        Nat.mul_le_mul_right _ (Nat.mul_le_mul_right _ (Nat.mul_le_mul ha hb))
  exact ⟨finite_of_between (fOfNat_finite (Nat.zero_le _)) (by decide) hlow hhigh, fUnits_zero.symm.trans_le hlow⟩

/-- A quotient of a finite F, not negative, by an integer is no NaN and not negative. -/
theorem fDiv_fOfNat_nonneg {x : F32} {n : Nat} (hx : fIsFinite x = true) (h0 : 0 ≤ fUnits x) (h1 : 1 ≤ n) (hn : n ≤ 2 ^ 24) :
    fIsNaN (fDiv x (fOfNat n)) = false ∧ fUnits (fOfNat 0) ≤ fUnits (fDiv x (fOfNat n)) := by
  have hpos := fUnits_fOfNat_pos h1 hn
  refine ⟨?_, le_fDiv hx (fOfNat_finite hn) (fOfNat_not_nan 0) hpos ?_⟩
  · rw [fDiv_finite hx (fOfNat_finite hn) (mt (fUnits_eq_zero_iff _).2 hpos.ne')]
    exact fIsNaN_fRound _ _ _
  · rw [fUnits_zero, zero_mul]
    exact mul_nonneg h0 (Int.natCast_nonneg _)

/-- The REAL ATTACK value needs no exact product: it is cut off at 255. -/
theorem attackReal_inEnvRange {cfg : Config} {c : Word} (h1 : 1 ≤ cfg.attackSamples) (hn : cfg.attackSamples ≤ 2 ^ 24)
    (hc : c.toNat ≤ cfg.attackSamples) : fInRange (fOfNat 0) (attackReal cfg c) (fOfNat 255) = true := by
  obtain ⟨hfin, hnonneg⟩ := fMul_fOfNat_bounds (hc.trans hn) (b := 255) (by norm_num)
  obtain ⟨hnan, hlow⟩ := fDiv_fOfNat_nonneg hfin hnonneg h1 hn
  unfold attackReal
  dsimp only
  split_ifs with hcut
  · exact fOfNat_inEnvRange le_rfl
  · rw [fLt_iff] at hcut
    exact fInRange_units.2 ⟨fOfNat_not_nan 0, hnan, fOfNat_not_nan 255, hlow,
      not_lt.1 fun h => hcut ⟨fOfNat_not_nan 255, hnan, h⟩⟩

/-- A ramp with exact products that goes down from a level by at most that level stays in the range. -/
theorem fallingRamp_inEnvRange {level height c n : Nat} (hl : level ≤ 255) (hh : height ≤ level) (h1 : 1 ≤ n)
    (hn : n ≤ 2 ^ 24) (hc : c ≤ n) (h : height * n ≤ 2 ^ 24) :
    fInRange (fOfNat 0) (fSub (fOfNat level) (fDiv (fMul (fOfNat height) (fOfNat c)) (fOfNat n))) (fOfNat 255) = true := by
  have hl24 : level ≤ 2 ^ 24 := hl.trans (by norm_num)
  have hproduct : height * c ≤ height * n := Nat.mul_le_mul_left height hc
  obtain ⟨uprod, fprod⟩ := fOfNat_units (hproduct.trans h)
  have flevel := fOfNat_finite hl24
  rw [fMul_fOfNat (hh.trans hl24) (hc.trans hn) (hproduct.trans h)]
  obtain ⟨_, hlow⟩ := fDiv_fOfNat_nonneg fprod (fUnits_fOfNat_nonneg _) h1 hn
  have hhigh : fUnits (fDiv (fOfNat (height * c)) (fOfNat n)) ≤ fUnits (fOfNat level) := by
    refine fDiv_le fprod (fOfNat_finite hn) (fOfNat_not_nan _) (fUnits_fOfNat_pos h1 hn) ?_
    rw [uprod, (fOfNat_units hl24).1, (fOfNat_units hn).1]
    simp only [← Nat.cast_mul, Int.ofNat_le]
    calc height * c * fOneUnits * fOneUnits ≤ level * n * fOneUnits * fOneUnits :=
          Nat.mul_le_mul_right _ (Nat.mul_le_mul_right _ (Nat.mul_le_mul hh hc))
      _ = level * fOneUnits * (n * fOneUnits) := by ring
  have fquot := finite_of_between (fOfNat_finite (Nat.zero_le _)) flevel hlow hhigh
  have hlevel : fUnits (fOfNat level) ≤ fUnits (fOfNat 255) := fUnits_fOfNat_le (by norm_num) hl
  rw [fUnits_zero] at hlow
  refine fInRange_units.2 ⟨fOfNat_not_nan 0, ?_, fOfNat_not_nan 255, ?_, ?_⟩
  · rw [fSub_finite flevel fquot]
    exact fIsNaN_fRound _ _ _
  · exact le_fSub flevel fquot (fOfNat_not_nan 0) (fUnits_zero.trans_le (sub_nonneg.2 hhigh))
  · exact fSub_le flevel fquot (fOfNat_not_nan 255) ((sub_le_self _ hlow).trans hlevel)

section

variable {cfg : Config} {c : Word} (hi : isInstance cfg = true)
include hi

theorem attackValue_inEnvRange (hc : c.toNat ≤ cfg.attackSamples) :
    fInRange (fOfNat 0) (attackValue cfg c) (fOfNat 255) = true := by
  cases harith : cfg.envArith with
  | real =>
    rw [attackValue_real c harith]
    exact attackReal_inEnvRange (samples_pos hi).1 (samples_le hi).1 hc
  | integer =>
    rw [attackValue_integer c harith]
    exact fOfNat_inEnvRange (Nat.min_le_left _ _)

theorem decayValue_inEnvRange (hc : c.toNat ≤ cfg.decaySamples)
    (hproduct : cfg.envArith = .real → (255 - cfg.sustainLevel) * cfg.decaySamples ≤ 2 ^ 24) :
    fInRange (fOfNat 0) (decayValue cfg c) (fOfNat 255) = true := by
  obtain ⟨_, hd, _⟩ := samples_pos hi
  obtain ⟨_, hd24, _⟩ := samples_le hi
  cases harith : cfg.envArith with
  | real =>
    rw [decayValue_real c harith]
    exact fallingRamp_inEnvRange le_rfl (Nat.sub_le _ _) hd hd24 hc (hproduct harith)
  | integer =>
    rw [decayValue_integer c harith, decayInteger_eq hc]
    exact fOfNat_inEnvRange (Nat.sub_le _ _)

theorem releaseValue_inEnvRange (hc : c.toNat ≤ cfg.releaseSamples)
    (hproduct : cfg.envArith = .real → cfg.sustainLevel * cfg.releaseSamples ≤ 2 ^ 24) :
    fInRange (fOfNat 0) (releaseValue cfg c) (fOfNat 255) = true := by
  have hs := sustainLevel_le hi
  obtain ⟨_, _, hr⟩ := samples_pos hi
  obtain ⟨_, _, hr24⟩ := samples_le hi
  cases harith : cfg.envArith with
  | real =>
    rw [releaseValue_real c harith]
    exact fallingRamp_inEnvRange hs le_rfl hr hr24 hc (hproduct harith)
  | integer =>
    rw [releaseValue_integer c harith, releaseInteger_eq hs hc]
    exact fOfNat_inEnvRange ((Nat.sub_le _ _).trans hs)

end

/-- A counter goes up by at most one, also where it wraps. -/
theorem toNat_add_one_le (n : Word) : (n + 1).toNat ≤ n.toNat + 1 := by
  rw [BitVec.toNat_add]
  exact Nat.mod_le _ _

/-- Settles O35. -/
theorem envelopeInRange : Obligations.EnvelopeInRange := by
  rintro cfg ⟨state, n⟩ hi hphase hdecay hrelease
  have hnext := toNat_add_one_le n
  cases state with
  | off => exact fOfNat_inEnvRange (Nat.zero_le _)
  | sustain => exact fOfNat_inEnvRange (sustainLevel_le hi)
  | attack => exact attackValue_inEnvRange hi (hnext.trans (of_decide_eq_true hphase))
  | decay => exact decayValue_inEnvRange hi (hnext.trans (of_decide_eq_true hphase)) hdecay
  | release =>
    rcases Nat.lt_or_ge cfg.releaseSamples (n + 1).toNat with hend | hc
    · rw [envGet_release_ended hend]
      exact fOfNat_inEnvRange (Nat.zero_le _)
    · rw [envGet_release hc]
      exact releaseValue_inEnvRange hi hc hrelease

end Sys2Proof.Machine
end

-- Proofs of the family 42_voice.md: the voice bank's commands.
section
/-! NOTE_ON takes the first free voice of the search or voice 0 (42_voice.md R165, R166), NOTE_OFF releases the voices that hold
the note (R168), and ALL_OFF forces every voice off (R170). -/

namespace Sys2Proof.Machine

open Sys2Proof

/-! ### Finding a voice -/

/-- The search ends at the first voice below the count that is not active. -/
theorem findFreeVoice_of_first_free {count k : Nat} {vs : List Voice} {v : Voice} (hk : k < count) (hv : vs[k]? = some v)
    (hfree : v.active = false) (hbusy : ∀ j u, j < k → vs[j]? = some u → u.active = true) : findFreeVoice count vs = k := by
  obtain ⟨hlen, rfl⟩ := List.getElem?_eq_some_iff.1 hv
  have hfind : (vs.take count).findIdx? (fun v => !v.active) = some k := by
    rw [List.findIdx?_eq_some_iff_getElem]
    refine ⟨by rw [List.length_take]; omega, ?_, fun j hj => ?_⟩
    · rw [List.getElem_take, hfree]
      rfl
    · rw [List.getElem_take, hbusy j _ hj (List.getElem?_eq_getElem (hj.trans hlen))]
      decide
  rw [findFreeVoice, hfind, Option.getD_some]

/-- With every voice below the count active the search gives voice 0. -/
theorem findFreeVoice_of_all_busy {count : Nat} {vs : List Voice}
    (hbusy : ∀ j u, j < count → vs[j]? = some u → u.active = true) : findFreeVoice count vs = 0 := by
  have hfind : (vs.take count).findIdx? (fun v => !v.active) = none := by
    rw [List.findIdx?_eq_none_iff]
    intro u hu
    obtain ⟨j, hj, rfl⟩ := List.mem_take_iff_getElem.1 hu
    rw [hbusy j _ (by omega) (List.getElem?_eq_getElem (by omega))]
    rfl
  rw [findFreeVoice, hfind, Option.getD_none]

/-- NOTE_ON writes one voice, the one that the search gives. -/
theorem noteOnRule_of_findFreeVoice {s : State} {k : Nat} {v : Voice}
    (hfind : findFreeVoice s.settings.voiceCount.toNat s.voices = k) (hv : s.voices[k]? = some v) (velocity note : BitVec 8) :
    noteOnRule velocity note s = s.withVoices (s.voices.set k
      (voiceNoteOn s.cfg s.settings.waveform s.settings.sampleRate (clampMidi note) (clampMidi velocity) v)) := by
  rw [noteOnRule, hfind, List.modify_eq_set_getElem?, hv]
  rfl

/-- Settles O19. -/
theorem noteOnEffect : Obligations.NoteOnEffect := by
  refine ⟨fun s velocity note k v hrun hk hv hfree hbusy => ?_, fun s velocity note v hrun hv hbusy => ?_⟩
  · rw [exec_noteOn hrun, noteOnRule_of_findFreeVoice (findFreeVoice_of_first_free hk hv hfree hbusy) hv]
    rfl
  · rw [exec_noteOn hrun, noteOnRule_of_findFreeVoice (findFreeVoice_of_all_busy hbusy) hv]
    rfl

/-! ### Releasing and silencing -/

/-- Mapping the elements below a position is mapping every element by its index. -/
theorem map_take_append_drop_eq_mapIdx {α : Type} (f : α → α) (n : Nat) (xs : List α) :
    (xs.take n).map f ++ xs.drop n = xs.mapIdx fun k x => if k < n then f x else x := by
  induction xs generalizing n with
  | nil => simp
  | cons x xs ih =>
    cases n with
    | zero => simpa [List.mapIdx_cons] using ih 0
    | succ n =>
      simp only [List.take_succ_cons, List.map_cons, List.drop_succ_cons, List.cons_append, ih, List.mapIdx_cons,
        Nat.zero_lt_succ, if_true, Nat.add_lt_add_iff_right]

theorem clampMidi_toNat (x : BitVec 8) : (clampMidi x).toNat = min x.toNat 127 := by
  rw [clampMidi, BitVec.toNat_ofNat, Nat.mod_eq_of_lt (by omega)]

/-- A release changes the envelope of an active voice that holds the note, unless it is OFF. -/
theorem releaseNote_eq (note : BitVec 8) (v : Voice) :
    releaseNote (clampMidi note) v =
      if v.active = true ∧ v.note.toNat = min note.toNat 127 ∧ v.env.state ≠ .off then
        { v with env := { state := .release, counter := 0 } }
      else v := by
  have hnote : v.note = clampMidi note ↔ v.note.toNat = min note.toNat 127 := by
    rw [← BitVec.toNat_inj, clampMidi_toNat]
  simp only [releaseNote, Bool.and_eq_true, beq_iff_eq, hnote, ← and_assoc]
  by_cases hheld : v.active = true ∧ v.note.toNat = min note.toNat 127
  · by_cases hoff : v.env.state = .off
    · rw [if_pos hheld, envNoteOff_of_off hoff, if_neg fun h => h.2 hoff]
    · rw [if_pos hheld, envNoteOff_of_ne_off hoff, if_pos ⟨hheld, hoff⟩]
  · rw [if_neg hheld, if_neg fun h => hheld h.1]

theorem noteOffRule_eq (note : BitVec 8) (s : State) :
    noteOffRule note s = s.withVoices (s.voices.mapIdx fun k v =>
      if k < s.settings.voiceCount.toNat ∧ v.active = true ∧ v.note.toNat = min note.toNat 127 ∧ v.env.state ≠ .off then
        { v with env := { state := .release, counter := 0 } }
      else v) := by
  rw [noteOffRule, map_take_append_drop_eq_mapIdx]
  congr 2
  funext k v
  rw [releaseNote_eq]
  exact (ite_and _ _ _ _).symm

/-- Settles O20. -/
theorem noteOffAndAllOff : Obligations.NoteOffAndAllOff := by
  refine fun s hrun => ⟨fun note => ?_, ?_⟩
  · rw [exec_noteOff hrun, noteOffRule_eq]
    rfl
  · rw [exec_allOff hrun]
    rfl

end Sys2Proof.Machine
end

-- Proofs of the family 42_voice.md: the noise generator.
section
/-! The two forms of the LFSR bit by bit (42_voice.md R158). In both the top bit of the next state brings back bit 0 and the other
bits bring back bits 1 to 31, so only the all-zero state gives the all-zero state. -/

namespace Sys2Proof.Machine

open Sys2Proof

/-- The mask of the Galois form has the tap positions set. -/
theorem galoisMask_getLsbD {i : Nat} (hi : i < 32) :
    (0x80400005 : Word).getLsbD i = decide (i = 0 ∨ i = 2 ∨ i = 22 ∨ i = 31) :=
  (by decide : ∀ i < 32, (0x80400005 : Word).getLsbD i = decide (i = 0 ∨ i = 2 ∨ i = 22 ∨ i = 31)) i hi

theorem shiftRight_one_getLsbD (st : Word) (i : Nat) :
    (st >>> 1).getLsbD i = (decide (i < 31) && st.getLsbD (i + 1)) := by
  rw [BitVec.getLsbD_ushiftRight, Nat.add_comm 1 i]
  by_cases h : i < 31
  · simp [h]
  · simp [h, BitVec.getLsbD_of_ge st (i + 1) (by omega)]

theorem galoisStep_getLsbD (st : Word) {i : Nat} (hi : i < 32) :
    (galoisStep st).getLsbD i =
      ((decide (i < 31) && st.getLsbD (i + 1)) ^^ (st.getLsbD 0 && decide (i = 0 ∨ i = 2 ∨ i = 22 ∨ i = 31))) := by
  unfold galoisStep
  split_ifs with h
  · rw [BitVec.getLsbD_xor, shiftRight_one_getLsbD, galoisMask_getLsbD hi, h, Bool.true_and]
  · rw [shiftRight_one_getLsbD, Bool.eq_false_iff.2 h, Bool.false_and, Bool.xor_false]

/-- One bit shifted to the top of a word. -/
theorem ofBool_shiftLeft_31_getLsbD (b : Bool) {i : Nat} (hi : i < 32) :
    ((BitVec.ofBool b).setWidth 32 <<< 31).getLsbD i = (decide (i = 31) && b) := by
  cases b
  · simp
  · exact (by decide : ∀ i < 32, ((BitVec.ofBool true).setWidth 32 <<< 31).getLsbD i = (decide (i = 31) && true)) i hi

theorem fibonacciStep_getLsbD (st : Word) {i : Nat} (hi : i < 32) :
    (fibonacciStep st).getLsbD i =
      if i = 31 then st.getLsbD 0 ^^ st.getLsbD 2 ^^ st.getLsbD 22 ^^ st.getLsbD 31 else st.getLsbD (i + 1) := by
  rw [fibonacciStep, BitVec.getLsbD_or, shiftRight_one_getLsbD, ofBool_shiftLeft_31_getLsbD _ hi]
  by_cases h : i = 31
  · simp [h]
  · simp [h, show i < 31 by omega]

/-- A word is zero when bit 0 is clear and so are the bits above it. -/
theorem eq_zero_of_getLsbD {st : Word} (h0 : st.getLsbD 0 = false) (h : ∀ i < 31, st.getLsbD (i + 1) = false) : st = 0 := by
  refine BitVec.eq_of_getLsbD_eq fun i hi => ?_
  rw [BitVec.ofNat_eq_ofNat, BitVec.getLsbD_zero]
  cases i with
  | zero => exact h0
  | succ i => exact h i (by omega)

theorem galoisStep_eq_zero_iff (st : Word) : galoisStep st = 0 ↔ st = 0 := by
  refine ⟨fun hzero => ?_, fun h => by rw [h]; rfl⟩
  have h0 : st.getLsbD 0 = false := by
    have htop := galoisStep_getLsbD st (i := 31) (by norm_num)
    rw [hzero, BitVec.ofNat_eq_ofNat, BitVec.getLsbD_zero] at htop
    simpa using htop.symm
  refine eq_zero_of_getLsbD h0 fun i hi => ?_
  have hlow := galoisStep_getLsbD st (show i < 32 by omega)
  rw [hzero, BitVec.ofNat_eq_ofNat, BitVec.getLsbD_zero, h0, Bool.false_and, Bool.xor_false, decide_eq_true hi,
    Bool.true_and] at hlow
  exact hlow.symm

theorem fibonacciStep_eq_zero_iff (st : Word) : fibonacciStep st = 0 ↔ st = 0 := by
  refine ⟨fun hzero => ?_, fun h => by rw [h]; rfl⟩
  have habove : ∀ i < 31, st.getLsbD (i + 1) = false := fun i hi => by
    have hlow := fibonacciStep_getLsbD st (show i < 32 by omega)
    rw [hzero, BitVec.ofNat_eq_ofNat, BitVec.getLsbD_zero, if_neg hi.ne] at hlow
    exact hlow.symm
  refine eq_zero_of_getLsbD ?_ habove
  have htop := fibonacciStep_getLsbD st (i := 31) (by norm_num)
  rw [hzero, BitVec.ofNat_eq_ofNat, BitVec.getLsbD_zero, if_pos rfl, habove 1 (by norm_num), habove 21 (by norm_num),
    habove 30 (by norm_num), Bool.xor_false, Bool.xor_false, Bool.xor_false] at htop
  exact htop.symm

theorem lfsrStep_galois {cfg : Config} (h : cfg.lfsrForm = .galois) (st : Word) : lfsrStep cfg st = galoisStep st := by
  simp only [lfsrStep, h]

theorem lfsrStep_fibonacci {cfg : Config} (h : cfg.lfsrForm = .fibonacci) (st : Word) :
    lfsrStep cfg st = fibonacciStep st := by
  simp only [lfsrStep, h]

theorem lfsrStep_eq_zero_iff (cfg : Config) (st : Word) : lfsrStep cfg st = 0 ↔ st = 0 := by
  cases h : cfg.lfsrForm with
  | galois => rw [lfsrStep_galois h, galoisStep_eq_zero_iff]
  | fibonacci => rw [lfsrStep_fibonacci h, fibonacciStep_eq_zero_iff]

/-- Settles O37. -/
theorem lfsrStepByForm : Obligations.LfsrStep :=
  ⟨fun st _ hi => galoisStep_getLsbD st hi, fun st _ hi => fibonacciStep_getLsbD st hi,
    fun cfg st => ⟨fun h => lfsrStep_galois h st, fun h => lfsrStep_fibonacci h st, lfsrStep_eq_zero_iff cfg st⟩,
    by decide, by decide, by decide, by decide⟩

end Sys2Proof.Machine
end

-- Proofs of the family 42_voice.md: the frequency of a note.
section
/-! The increment of a note (42_voice.md R141 to R143). For the ten notes A the quotient (n - 69) / 12 is an integer, its power of
two is an F (00_scope.md R13), and 440 times that power fits into 24 bits: no operation rounds. -/

namespace Sys2Proof.Machine

open Sys2Proof

/-! ### Values that are F -/

/-- An F of the value of a finite one is finite. -/
theorem finite_of_fUnits_eq {x z : F32} (hz : fIsFinite z = true) (h : fUnits x = fUnits z) : fIsFinite x = true :=
  finite_of_between hz hz h.ge h.le

/-- A number of at most 24 bits, scaled by a power of two, is an F: by induction on the power, up to a normal significand. -/
theorem exists_fUnits_eq {a e : Nat} (ha : a ≤ 2 ^ 24) (he : e ≤ 252) :
    ∃ z, fIsFinite z = true ∧ fUnits z = (a * 2 ^ e : Nat) := by
  have pattern : ∀ {a e : Nat}, a ≤ 2 ^ 24 → e ≤ 252 → e = 0 ∨ 2 ^ 23 ≤ a →
      ∃ z, fIsFinite z = true ∧ fUnits z = (a * 2 ^ e : Nat) := fun {a e} ha he h => by
    have hbits : fBits (fPack false (e * 2 ^ 23 + a)) = e * 2 ^ 23 + a := fBits_fPack false (by omega)
    refine ⟨fPack false (e * 2 ^ 23 + a), ?_, ?_⟩
    · rw [fIsFinite_iff, hbits]
      omega
    · rw [fUnits_eq, fSign_fPack _ (by omega), fMagnitude_eq, hbits, patternUnits_of h ha]
      rfl
  induction e generalizing a with
  | zero => exact pattern ha he (.inl rfl)
  | succ e ih =>
    rcases le_or_gt (2 ^ 23) a with hnormal | hsmall
    · exact pattern ha he (.inr hnormal)
    · obtain ⟨z, hz, hu⟩ := ih (a := 2 * a) (by omega) (by omega)
      exact ⟨z, hz, by rw [hu, pow_succ]; congr 1; ring⟩

/-- An integer of at most 24 bits and a sign is an F. -/
theorem fOfInt_units {z : Int} (h : z.natAbs ≤ 2 ^ 24) : fUnits (fOfInt z) = z * fOneUnits ∧ fIsFinite (fOfInt z) = true := by
  obtain ⟨hu, hf⟩ := fOfNat_units h
  have hunits : fUnits (fOfInt z) = z * fOneUnits := by
    rcases le_or_gt 0 z with hz | hz
    · obtain ⟨n, rfl⟩ := Int.eq_ofNat_of_zero_le hz
      rw [fOfInt_natCast]
      exact hu
    · obtain ⟨n, rfl⟩ : ∃ n : Nat, z = -n := ⟨z.natAbs, by omega⟩
      rw [fUnits_fOfInt_neg (by omega) (by omega), neg_mul]
  refine ⟨hunits, finite_of_fMagnitude_lt ?_⟩
  have hmag : fMagnitude (fOfInt z) = fMagnitude (fOfNat z.natAbs) := by
    rw [← natAbs_fUnits, ← natAbs_fUnits, hunits, hu, Int.natAbs_mul, Int.natAbs_mul, Int.natAbs_natCast, Int.natAbs_natCast]
  rw [hmag]
  exact fMagnitude_lt_of_finite hf

/-! ### Floors -/

theorem fFloor_eq_floor_fValue {x : F32} (h : fIsFinite x = true) : fFloor x = ⌊fValue x⌋ := by
  rw [fFloor, if_pos h, fValue_eq_units_div, Rat.floor_intCast_div_natCast]

/-- A floor that is a u32 is taken as it is. -/
theorem fFloorU32_toNat {x : F32} (h0 : 0 ≤ fFloor x) (h : fFloor x < 2 ^ 32) : ((fFloorU32 x).toNat : Int) = fFloor x := by
  rw [fFloorU32, if_pos ⟨h0, h⟩, BitVec.toNat_ofInt]
  omega

/-! ### The increment -/

theorem noteIncrement_float {cfg : Config} (h : cfg.phaseRepr = .float) (n : BitVec 7) (rate : Word) :
    noteIncrement cfg n rate = fDiv (noteFreq n) (fOfNat rate.toNat) := by
  simp only [noteIncrement, h, incFloat]

theorem noteIncrement_q16 {cfg : Config} (h : cfg.phaseRepr = .q16) (n : BitVec 7) (rate : Word) :
    noteIncrement cfg n rate = fFloorU32 (fMul (fDiv (noteFreq n) (fOfNat rate.toNat)) (fOfNat 65536)) := by
  simp only [noteIncrement, h, incFloat]

/-! ### The notes A -/

/-- A whole number of octaves, from the number of semitones. -/
theorem fUnits_octaves {j : Int} (h : j.natAbs ≤ 10) : fUnits (fDiv (fOfInt (12 * j)) (fOfNat 12)) = j * fOneUnits := by
  obtain ⟨u12j, f12j⟩ := fOfInt_units (z := 12 * j) (by omega)
  obtain ⟨uj, fj⟩ := fOfInt_units (z := j) (by omega)
  obtain ⟨u12, f12⟩ := fOfNat_units (n := 12) (by norm_num)
  rw [← uj]
  refine fDiv_exact f12j f12 (not_nan_of_finite fj) (fUnits_fOfNat_pos (by norm_num) (by norm_num)) ?_
  rw [u12j, uj, u12]
  push_cast
  ring

/-- Octaves up or down are exact powers of two. -/
theorem fUnits_pow2F_octaves {j : Int} (h : j.natAbs ≤ 10) :
    fIsFinite (pow2F (fDiv (fOfInt (12 * j)) (fOfNat 12))) = true ∧
      fUnits (pow2F (fDiv (fOfInt (12 * j)) (fOfNat 12))) = (2 ^ (j + 149).toNat : Nat) := by
  obtain ⟨uj, fj⟩ := fOfInt_units (z := j) (by omega)
  have hx := fUnits_octaves h
  obtain ⟨r, fr, ur⟩ := exists_fUnits_eq (a := 1) (e := (j + 149).toNat) (by norm_num) (by omega)
  rw [one_mul] at ur
  have hone := fOneUnits_ne_zero
  have hpow : pow2F (fDiv (fOfInt (12 * j)) (fOfNat 12)) = r := by
    refine pow2F_of_fValue (k := j) (finite_of_fUnits_eq fj (hx.trans uj.symm)) fr ?_ ?_
    · rw [fValue_eq_units_div, hx]
      push_cast
      field_simp
    · have hsplit : (2 : ℚ) ^ (j + 149).toNat = 2 ^ j * 2 ^ 149 := by
        rw [← zpow_natCast, Int.toNat_of_nonneg (by omega), zpow_add₀ two_ne_zero]
        rfl
      rw [fValue_eq_units_div, ur, div_eq_iff fOneUnits_ne_zero, fOneUnits]
      push_cast
      exact hsplit
  rw [hpow]
  exact ⟨fr, ur⟩

/-- The note j octaves from note 69 has the frequency 440 · 2^j. -/
theorem fUnits_noteFreq_octaves {n : BitVec 7} {j : Int} (h : j.natAbs ≤ 10) (hn : (n.toNat : Int) - 69 = 12 * j) :
    fUnits (noteFreq n) = (440 * 2 ^ (j + 149).toNat : Nat) := by
  obtain ⟨fpow, upow⟩ := fUnits_pow2F_octaves h
  obtain ⟨u440, f440⟩ := fOfNat_units (n := 440) (by norm_num)
  obtain ⟨z, fz, uz⟩ := exists_fUnits_eq (a := 440) (e := (j + 149).toNat) (by norm_num) (by omega)
  rw [noteFreq, hn, ← uz]
  refine fMul_exact f440 fpow (not_nan_of_finite fz) ?_
  rw [u440, upow, uz]
  push_cast
  ring

/-- Settles O21. -/
theorem noteFrequencyAndIncrement : Obligations.NoteFrequencyAndIncrement := by
  refine ⟨fun cfg n rate h => noteIncrement_float h n rate, fun cfg n rate h => ?_, fun k => ?_⟩
  · dsimp only
    intro h0 h32
    rw [noteIncrement_q16 h]
    exact fFloorU32_toNat h0 h32
  · have hn : ((BitVec.ofNat 7 (9 + 12 * k)).toNat : Int) - 69 = 12 * ((k : Int) - 5) := by
      rw [BitVec.toNat_ofNat, Nat.mod_eq_of_lt (by omega)]
      push_cast
      ring
    have hexp : ((k : Int) - 5 + 149).toNat = k + 144 := by omega
    rw [fUnits_noteFreq_octaves (by omega) hn, hexp]
    push_cast
    ring

end Sys2Proof.Machine
end

-- Proofs of the family 42_voice.md: the phase.
section
/-! The phase of a voice in both representations (42_voice.md R145 to R149). A Q16.16 phase is a multiple of 2^-16 below 1, so it
is an F. A FLOAT phase and an increment below 2^23 add up to at most 2^24, where wrapping leaves a phase. -/

namespace Sys2Proof.Machine

open Sys2Proof

/-! ### The waveform phase -/

theorem wavePhase_float {cfg : Config} (h : cfg.phaseRepr = .float) (phase : Word) : wavePhase cfg phase = phase := by
  simp only [wavePhase, h]

theorem wavePhase_q16 {cfg : Config} (h : cfg.phaseRepr = .q16) (phase : Word) :
    wavePhase cfg phase = fDiv (fOfNat phase.toNat) (fOfNat 65536) := by
  simp only [wavePhase, h]

/-- A number below 2^16, divided by 2^16, is an F. -/
theorem fUnits_fDiv_65536 {n : Nat} (h : n < 65536) :
    fIsFinite (fDiv (fOfNat n) (fOfNat 65536)) = true ∧ fUnits (fDiv (fOfNat n) (fOfNat 65536)) = (n * 2 ^ 133 : Nat) := by
  obtain ⟨un, fn⟩ := fOfNat_units (n := n) (by omega)
  obtain ⟨ud, fd⟩ := fOfNat_units (n := 65536) (by norm_num)
  obtain ⟨z, fz, uz⟩ := exists_fUnits_eq (a := n) (e := 133) (by omega) (by norm_num)
  have hquot : fUnits (fDiv (fOfNat n) (fOfNat 65536)) = fUnits z := by
    refine fDiv_exact fn fd (not_nan_of_finite fz) (fUnits_fOfNat_pos (by norm_num) (by norm_num)) ?_
    rw [un, ud, uz, fOneUnits]
    push_cast
    ring
  exact ⟨finite_of_fUnits_eq fz hquot, hquot.trans uz⟩

theorem fDiv_65536_inUnit {n : Nat} (h : n < 65536) : fInUnit (fDiv (fOfNat n) (fOfNat 65536)) = true := by
  obtain ⟨hf, hu⟩ := fUnits_fDiv_65536 h
  rw [fInUnit_iff, hu, fOneUnits]
  exact ⟨not_nan_of_finite hf, Int.natCast_nonneg _, by norm_num; omega⟩

theorem fValue_fDiv_65536 {n : Nat} (h : n < 65536) : fValue (fDiv (fOfNat n) (fOfNat 65536)) = n / 65536 := by
  rw [fValue_eq_units_div, (fUnits_fDiv_65536 h).2, fOneUnits, div_eq_div_iff (by norm_num) (by norm_num)]
  push_cast
  ring

/-! ### The modulated increment -/

section

variable {cfg : Config} {vib : F32} (inc : Word)

theorem modulatedIncrement_unmodulated (h : fNe vib (fOfNat 0) = false) : modulatedIncrement cfg inc vib = inc := by
  simp [modulatedIncrement, h]

theorem modulatedIncrement_float (hrepr : cfg.phaseRepr = .float) (h : fNe vib (fOfNat 0) = true) :
    modulatedIncrement cfg inc vib = fMul inc (fAdd (fOfNat 1) vib) := by
  simp only [modulatedIncrement, h, hrepr, if_true]

theorem modulatedIncrement_q16 (hrepr : cfg.phaseRepr = .q16) (h : fNe vib (fOfNat 0) = true) :
    modulatedIncrement cfg inc vib = fFloorU32 (fMul (fOfNat inc.toNat) (fAdd (fOfNat 1) vib)) := by
  simp only [modulatedIncrement, h, hrepr, if_true]

end

/-! ### The advanced phase -/

section

variable {cfg : Config} (phase inc : Word)

theorem advancePhase_float (h : cfg.phaseRepr = .float) : advancePhase cfg phase inc = wrapUnit (fAdd phase inc) := by
  simp only [advancePhase, h]

theorem advancePhase_q16_toNat (h : cfg.phaseRepr = .q16) :
    (advancePhase cfg phase inc).toNat = (phase.toNat + inc.toNat) % 65536 := by
  simp only [advancePhase, h]
  rw [BitVec.toNat_ofNat, Nat.mod_eq_of_lt (by omega)]

end

theorem wrapUnit_below_one {x : F32} (h : fLe (fOfNat 1) x = false) : wrapUnit x = x := by simp [wrapUnit, h]

theorem wrapUnit_from_one {x : F32} (h : fLe (fOfNat 1) x = true) (hx : fIsFinite x = true) :
    wrapUnit x = fSub x (fOfInt ⌊fValue x⌋) := by
  rw [wrapUnit, if_pos h, fFloor_eq_floor_fValue hx]

/-- A phase in [0, 1), advanced by an increment that is not negative and below 2^23, is again in [0, 1). -/
theorem wrapUnit_fAdd_inUnit {phase inc : F32} (hphase : fInUnit phase = true) (hlow : fLe (fOfNat 0) inc = true)
    (hhigh : fLt inc (fOfNat (2 ^ 23)) = true) : fInUnit (wrapUnit (fAdd phase inc)) = true := by
  obtain ⟨_, plow, phigh⟩ := (fInUnit_iff phase).1 hphase
  obtain ⟨_, _, ilow⟩ := (fLe_iff _ _).1 hlow
  obtain ⟨_, _, ihigh⟩ := (fLt_iff _ _).1 hhigh
  have fzero : fIsFinite (fOfNat 0) = true := fOfNat_finite (Nat.zero_le _)
  obtain ⟨u23, f23⟩ := fOfNat_units (n := 2 ^ 23) (by norm_num)
  obtain ⟨u24, f24⟩ := fOfNat_units (n := 2 ^ 24) le_rfl
  have fphase := finite_of_inUnit hphase
  have finc : fIsFinite inc = true := finite_of_between fzero f23 ilow ihigh.le
  rw [fUnits_zero] at ilow
  have hge : fUnits (fOfNat 0) ≤ fUnits (fAdd phase inc) :=
    le_fAdd fphase finc (fOfNat_not_nan 0) (fUnits_zero.trans_le (add_nonneg plow ilow))
  have hle : fUnits (fAdd phase inc) ≤ fUnits (fOfNat (2 ^ 24)) := by
    refine fAdd_le fphase finc (fOfNat_not_nan _) ?_
    rw [u23] at ihigh
    rw [u24]
    push_cast at ihigh ⊢
    omega
  exact wrapUnit_inUnit (finite_of_between fzero f24 hge hle) (fUnits_zero.symm.trans_le hge) hle

/-- Settles O38. -/
theorem phaseStaysInCycle : Obligations.PhaseStaysInCycle := by
  refine ⟨fun cfg phase => ⟨fun h => wavePhase_float h phase, fun h => ⟨wavePhase_q16 h phase, fun hp => ?_⟩⟩,
    fun cfg inc vib => ⟨fun h => modulatedIncrement_unmodulated inc h,
      fun h => ⟨fun hrepr => modulatedIncrement_float inc hrepr h, fun hrepr => ?_⟩⟩,
    fun cfg phase inc h => ?_, fun cfg phase inc h => advancePhase_q16_toNat phase inc h,
    fun cfg phase inc h hphase hlow hhigh => ?_⟩
  · rw [wavePhase_q16 h]
    exact ⟨fDiv_65536_inUnit hp, fValue_fDiv_65536 hp⟩
  · dsimp only
    intro hfin h0 h32
    rw [← fFloor_eq_floor_fValue hfin] at h0 h32 ⊢
    rw [modulatedIncrement_q16 inc hrepr h]
    exact fFloorU32_toNat h0 h32
  · rw [advancePhase_float phase inc h]
    exact ⟨wrapUnit_below_one, wrapUnit_from_one⟩
  · rw [advancePhase_float phase inc h]
    exact wrapUnit_fAdd_inUnit hphase hlow hhigh

end Sys2Proof.Machine
end

-- Proofs of the family 42_voice.md: the factors that are exactly 1.
section
/-! Multiplying by F(1) changes no finite F, and a quotient n / n is F(1): so full envelope, velocity, tremolo and volume leave a
sample as it is (42_voice.md R160; 46_mixer.md R255). The sum of equal samples is an integer of at most 24 bits, so it is an F and
dividing it by their number is exact (46_mixer.md R254). -/

namespace Sys2Proof.Machine

open Sys2Proof

/-! ### Factors -/

theorem fMul_fOfNat_one {x : F32} (hx : fIsFinite x = true) : fMul x (fOfNat 1) = x := by
  have f1 : fIsFinite (fOfNat 1) = true := fOfNat_finite (by norm_num)
  apply eq_of_fUnits_eq
  · exact fMul_exact hx f1 (not_nan_of_finite hx) (by rw [fUnits_one])
  · rw [fSign_fMul hx f1, fSign_fOfNat, Bool.bne_false]

theorem fDiv_fOfNat_self {n : Nat} (h1 : 1 ≤ n) (hn : n ≤ 2 ^ 24) : fDiv (fOfNat n) (fOfNat n) = fOfNat 1 := by
  have h := fDiv_fOfNat (k := 1) (by norm_num) h1 hn (by omega)
  rwa [Nat.one_mul] at h

theorem fNe_fOfNat_self (n : Nat) : fNe (fOfNat n) (fOfNat n) = false := by simp [fNe, fEq, fOfNat_not_nan]

theorem scaleSample_unity {raw : F32} (h : fIsFinite raw = true) : scaleSample raw (fOfNat 255) 127 (fOfNat 1) = raw := by
  have hvelocity : fDiv (fOfNat (127 : BitVec 7).toNat) (fOfNat 127) = fOfNat 1 :=
    fDiv_fOfNat_self (n := 127) (by norm_num) (by norm_num)
  rw [scaleSample, fNe_fOfNat_self, hvelocity, fDiv_fOfNat_self (by norm_num) (by norm_num), fMul_fOfNat_one h, fMul_fOfNat_one h]
  rfl

theorem scaleVolume_unity {m : F32} (h : fIsFinite m = true) : scaleVolume 255 m = m := by
  have hvolume : fDiv (fOfNat (255 : BitVec 8).toNat) (fOfNat 255) = fOfNat 1 :=
    fDiv_fOfNat_self (n := 255) (by norm_num) (by norm_num)
  rw [scaleVolume, hvolume, fMul_fOfNat_one h]

/-! ### The average -/

theorem fSign_fOfInt (z : Int) : fSign (fOfInt z) = decide (z < 0) := fSign_fRound _ _ _

/-- An integer multiple of at most 24 bits, divided. -/
theorem fDiv_fOfInt_mul {n : Nat} {z : Int} (h1 : 1 ≤ n) (hn : n ≤ 2 ^ 24) (h : n * z.natAbs ≤ 2 ^ 24) :
    fDiv (fOfInt (n * z)) (fOfNat n) = fOfInt z := by
  obtain ⟨uz, fz⟩ := fOfInt_units (z := z) ((Nat.le_mul_of_pos_left _ h1).trans h)
  obtain ⟨uprod, fprod⟩ := fOfInt_units (z := n * z) (by rwa [Int.natAbs_mul, Int.natAbs_natCast])
  obtain ⟨un, fn⟩ := fOfNat_units hn
  have hpos := fUnits_fOfNat_pos h1 hn
  apply eq_of_fUnits_eq
  · refine fDiv_exact fprod fn (not_nan_of_finite fz) hpos ?_
    rw [uprod, uz, un]
    ring
  · have hsign : (n : Int) * z < 0 ↔ z < 0 :=
      ⟨fun h => neg_of_mul_neg_right h (by omega), mul_neg_of_pos_of_neg (by omega)⟩
    rw [fSign_fDiv fprod fn (mt (fUnits_eq_zero_iff _).2 hpos.ne'), fSign_fOfInt, fSign_fOfInt, fSign_fOfNat, Bool.bne_false]
    exact decide_eq_decide.2 hsign

/-- n equal samples average to that sample. -/
theorem mixAverage_replicate {n : Nat} (o : BitVec 16) (h1 : 1 ≤ n) (hn : n ≤ 32) :
    mixAverage (List.replicate n o.toInt) = fOfInt o.toInt := by
  have hlow := o.le_toInt
  have hhigh := o.toInt_lt
  rw [mixAverage, List.length_replicate, List.sum_replicate, nsmul_eq_mul]
  split_ifs with h
  · refine fDiv_fOfInt_mul h1 (by omega) ?_
    norm_num at hlow hhigh
    calc n * o.toInt.natAbs ≤ 32 * 2 ^ 15 := Nat.mul_le_mul hn (by omega)
      _ ≤ 2 ^ 24 := by norm_num
  · obtain rfl : n = 1 := by omega
    rw [Nat.cast_one, one_mul]

/-- Settles O40. -/
theorem unityFactors : Obligations.UnityFactors :=
  ⟨fun _ h => scaleSample_unity h, fun _ h => scaleVolume_unity h, fun _ o h1 hn => mixAverage_replicate o h1 hn⟩

end Sys2Proof.Machine
end

-- Proofs of the family 42_voice.md: the range of a sample.
section
/-! Every raw sample lies in the full-scale range (42_voice.md R152 to R156, R162), since an operation stays below and above each
F that bounds its exact result; the table sine because both ends of every segment of the ROM lie in [-1, 1] and the interpolation
stays between them. A factor of at most 1 never makes a magnitude larger (R160, R162). -/

namespace Sys2Proof.Machine

open Sys2Proof

/-! ### The ranges, in units -/

theorem fUnits_fullScale : fUnits (fOfNat 32767) = 32767 * fOneUnits := fUnits_int16_max

theorem fUnits_neg_fullScale : fUnits (fOfInt (-32767)) = -(32767 * fOneUnits) := by
  rw [(fOfInt_units (z := -32767) (by norm_num)).1, neg_mul]

theorem fUnits_neg_one : fUnits (fOfInt (-1)) = -fOneUnits := by
  rw [(fOfInt_units (z := -1) (by norm_num)).1, neg_one_mul]

theorem inUnitRange_iff (x : F32) :
    fInRange (fOfInt (-1)) x (fOfNat 1) = true ↔
      fIsNaN x = false ∧ -(fOneUnits : Int) ≤ fUnits x ∧ fUnits x ≤ fOneUnits := by
  rw [fInRange, fInRange_units, fUnits_neg_one, fUnits_one]
  simp [fIsNaN_fOfInt, fOfNat_not_nan]

theorem finite_of_inUnitRange {x : F32} (h : fInRange (fOfInt (-1)) x (fOfNat 1) = true) : fIsFinite x = true := by
  obtain ⟨_, _, _, low, high⟩ := fInRange_units.1 h
  exact finite_of_between (fOfInt_units (z := -1) (by norm_num)).2 (fOfNat_finite (n := 1) (by norm_num)) low high

/-! ### Square, sawtooth and triangle -/

/-- A phase times an integer: finite, and within every integer bound of the exact product. -/
theorem fMul_fOfNat_phase {k : Nat} {p : F32} (hk : k ≤ 2 ^ 24) (hp : fInUnit p = true) :
    fIsFinite (fMul (fOfNat k) p) = true ∧
      (∀ a : Nat, a ≤ 2 ^ 24 → k * fUnits p ≤ a * fOneUnits → fUnits (fMul (fOfNat k) p) ≤ a * fOneUnits) ∧
      ∀ a : Nat, a ≤ 2 ^ 24 → a * fOneUnits ≤ k * fUnits p → a * fOneUnits ≤ fUnits (fMul (fOfNat k) p) := by
  obtain ⟨_, plow, phigh⟩ := (fInUnit_iff p).1 hp
  have fp := finite_of_inUnit hp
  obtain ⟨uk, fk⟩ := fOfNat_units hk
  have hproduct : fUnits (fOfNat k) * fUnits p = k * fUnits p * fOneUnits := by rw [uk]; ring
  have hone : (0 : Int) ≤ fOneUnits := Int.natCast_nonneg _
  have hle : ∀ a : Nat, a ≤ 2 ^ 24 → k * fUnits p ≤ a * fOneUnits → fUnits (fMul (fOfNat k) p) ≤ a * fOneUnits := by
    intro a ha h
    rw [← (fOfNat_units ha).1] at h ⊢
    exact fMul_le fk fp (fOfNat_not_nan a) (hproduct.trans_le (mul_le_mul_of_nonneg_right h hone))
  have hge : ∀ a : Nat, a ≤ 2 ^ 24 → a * fOneUnits ≤ k * fUnits p → a * fOneUnits ≤ fUnits (fMul (fOfNat k) p) := by
    intro a ha h
    rw [← (fOfNat_units ha).1] at h ⊢
    exact le_fMul fk fp (fOfNat_not_nan a) ((mul_le_mul_of_nonneg_right h hone).trans_eq hproduct.symm)
  refine ⟨?_, hle, hge⟩
  have hlow := hge 0 (Nat.zero_le _) (by rw [Nat.cast_zero, zero_mul]; exact mul_nonneg (Int.natCast_nonneg k) plow)
  have hhigh := hle k hk (mul_le_mul_of_nonneg_left phigh.le (Int.natCast_nonneg k))
  rw [← uk] at hhigh
  rw [Nat.cast_zero, zero_mul, ← fUnits_zero] at hlow
  exact finite_of_between (fOfNat_finite (Nat.zero_le _)) fk hlow hhigh

/-- A difference of finite F whose exact value lies in the full-scale range lies in it. -/
theorem fSub_inFullScale {x y : F32} (hx : fIsFinite x = true) (hy : fIsFinite y = true)
    (hlow : -(32767 * (fOneUnits : Int)) ≤ fUnits x - fUnits y) (hhigh : fUnits x - fUnits y ≤ 32767 * fOneUnits) :
    fInRange (fOfInt (-32767)) (fSub x y) (fOfNat 32767) = true := by
  refine fInRange_units.2 ⟨fIsNaN_fOfInt _, ?_, fOfNat_not_nan _,
    le_fSub hx hy (fIsNaN_fOfInt _) (fUnits_neg_fullScale.trans_le hlow),
    fSub_le hx hy (fOfNat_not_nan _) (hhigh.trans_eq fUnits_fullScale.symm)⟩
  rw [fSub_finite hx hy]
  exact fIsNaN_fRound _ _ _

theorem squareSample_inFullScale (p : F32) : fInRange (fOfInt (-32767)) (squareSample p) (fOfNat 32767) = true := by
  unfold squareSample
  split_ifs
  · decide
  · decide

theorem sawtoothSample_inFullScale {p : F32} (hp : fInUnit p = true) :
    fInRange (fOfInt (-32767)) (sawtoothSample p) (fOfNat 32767) = true := by
  obtain ⟨_, plow, phigh⟩ := (fInUnit_iff p).1 hp
  obtain ⟨u, f⟩ := fOfNat_units (n := 32767) (by norm_num)
  obtain ⟨fx, hle, hge⟩ := fMul_fOfNat_phase (k := 65534) (by norm_num) hp
  have high := hle 65534 (by norm_num) (by push_cast; omega)
  have low := hge 0 (by norm_num) (by push_cast; omega)
  refine fSub_inFullScale fx f ?_ ?_ <;> rw [u] <;> push_cast at low high ⊢ <;> omega

/-- A phase below one half, or at least it, by units. -/
theorem fLt_half_iff {p : F32} (hp : fIsNaN p = false) : fLt p (fDecimal 1 2) = true ↔ 2 * fUnits p < fOneUnits := by
  have uhalf : 2 * fUnits (fDecimal 1 2) = fOneUnits := by decide
  rw [fLt_iff, ← uhalf]
  simp [hp, fDecimal_not_nan]

theorem triangleSample_inFullScale {p : F32} (hp : fInUnit p = true) :
    fInRange (fOfInt (-32767)) (triangleSample p) (fOfNat 32767) = true := by
  obtain ⟨hnan, plow, phigh⟩ := (fInUnit_iff p).1 hp
  obtain ⟨fx, hle, hge⟩ := fMul_fOfNat_phase (k := 131068) (by norm_num) hp
  unfold triangleSample
  split_ifs with h <;> rw [fLt_half_iff hnan] at h
  · obtain ⟨u, f⟩ := fOfNat_units (n := 32767) (by norm_num)
    have high := hle 65534 (by norm_num) (by push_cast; omega)
    have low := hge 0 (by norm_num) (by push_cast; omega)
    refine fSub_inFullScale fx f ?_ ?_ <;> rw [u] <;> push_cast at low high ⊢ <;> omega
  · obtain ⟨u, f⟩ := fOfNat_units (n := 98301) (by norm_num)
    have high := hle 131068 (by norm_num) (by push_cast; omega)
    have low := hge 65534 (by norm_num) (by push_cast; omega)
    refine fSub_inFullScale f fx ?_ ?_ <;> rw [u] <;> push_cast at low high ⊢ <;> omega

/-! ### Interpolation -/

/-- A product with a factor in [0, 1] lies between zero and the other operand. -/
theorem fMul_between_zero {d r : F32} (hd : fIsFinite d = true) (hr : fIsFinite r = true) (r0 : 0 ≤ fUnits r)
    (r1 : fUnits r ≤ fOneUnits) :
    min 0 (fUnits d) ≤ fUnits (fMul d r) ∧ fUnits (fMul d r) ≤ max 0 (fUnits d) := by
  have hzero : fIsNaN (fOfNat 0) = false := fOfNat_not_nan 0
  have hnan := not_nan_of_finite hd
  rcases le_total 0 (fUnits d) with h | h
  · rw [min_eq_left h, max_eq_right h, ← fUnits_zero]
    refine ⟨le_fMul hd hr hzero ?_, fMul_le hd hr hnan (mul_le_mul_of_nonneg_left r1 h)⟩
    rw [fUnits_zero, zero_mul]
    exact mul_nonneg h r0
  · rw [min_eq_right h, max_eq_left h, ← fUnits_zero]
    refine ⟨le_fMul hd hr hnan (mul_le_mul_of_nonpos_left r1 h), fMul_le hd hr hzero ?_⟩
    rw [fUnits_zero, zero_mul]
    exact mul_nonpos_of_nonpos_of_nonneg h r0

/-- From a in [-1, 1] a part of the way to a + d in [-1, 1]. -/
theorem fAdd_fMul_inUnitRange {a d r : F32} (ha : fInRange (fOfInt (-1)) a (fOfNat 1) = true) (hd : fIsFinite d = true)
    (hr : fIsFinite r = true) (r0 : 0 ≤ fUnits r) (r1 : fUnits r ≤ fOneUnits)
    (hend : -(fOneUnits : Int) ≤ fUnits a + fUnits d ∧ fUnits a + fUnits d ≤ fOneUnits) :
    fInRange (fOfInt (-1)) (fAdd a (fMul d r)) (fOfNat 1) = true := by
  have fa := finite_of_inUnitRange ha
  obtain ⟨_, alow, ahigh⟩ := (inUnitRange_iff a).1 ha
  obtain ⟨mlow, mhigh⟩ := fMul_between_zero hd hr r0 r1
  have fm : fIsFinite (fMul d r) = true := by
    apply finite_of_fMagnitude_lt
    have := fMagnitude_lt_of_finite hd
    rw [← natAbs_fUnits] at this ⊢
    omega
  refine fInRange_units.2 ⟨fIsNaN_fOfInt _, ?_, fOfNat_not_nan 1, le_fAdd fa fm (fIsNaN_fOfInt _) ?_,
    fAdd_le fa fm (fOfNat_not_nan 1) ?_⟩
  · rw [fAdd_finite fa fm]
    exact fIsNaN_fRound _ _ _
  · rw [fUnits_neg_one]
    omega
  · rw [fUnits_one]
    omega

/-! ### The table -/

/-- A magnitude of at least 2^(23 + k) units is a multiple of 2^k units. -/
theorem dvd_fMagnitude {x : F32} {k : Nat} (h : 2 ^ (23 + k) ≤ fMagnitude x) : 2 ^ k ∣ fMagnitude x := by
  obtain ⟨e, q, hbits, hnormal, hq⟩ := pattern_split (fBits x)
  rw [fMagnitude_eq, hbits, patternUnits_of hnormal hq.le] at h ⊢
  refine Dvd.dvd.mul_left (pow_dvd_pow 2 ?_) q
  -- below the exponent k a significand of 24 bits does not reach 2^(23 + k)
  by_contra hlt
  have hlow : q * 2 ^ e < 2 ^ 24 * 2 ^ (k - 1) :=
    lt_of_lt_of_le (Nat.mul_lt_mul_of_pos_right hq (Nat.two_pow_pos e))
      (Nat.mul_le_mul_left _ (Nat.pow_le_pow_right two_pos (by omega)))
  rw [← pow_add, show 24 + (k - 1) = 23 + k by omega] at hlow
  omega

/-- One half, in units of 2^-149. -/
def halfUnits : Nat := 2 ^ 148

theorem fOneUnits_eq_halves : fOneUnits = 2 * halfUnits := by decide

/-- The difference of two F of at least 1/2 in magnitude that lie at most 1/2 apart is exact. -/
theorem fUnits_fSub_of_near {x y : F32} (hx : fIsFinite x = true) (hy : fIsFinite y = true)
    (x0 : halfUnits ≤ fMagnitude x) (y0 : halfUnits ≤ fMagnitude y) (near : (fUnits x - fUnits y).natAbs ≤ halfUnits) :
    fUnits (fSub x y) = fUnits x - fUnits y := by
  have multiple : ∀ {z : F32}, halfUnits ≤ fMagnitude z → ((2 ^ 125 : Nat) : Int) ∣ fUnits z := fun {z} h =>
    Int.natCast_dvd.2 (by rw [natAbs_fUnits]; exact dvd_fMagnitude (k := 125) h)
  obtain ⟨m, hm⟩ := Int.natCast_dvd.1 (dvd_sub (multiple x0) (multiple y0))
  have hm23 : m ≤ 2 ^ 23 := by
    rw [hm, halfUnits] at near
    omega
  obtain ⟨z, fz, uz⟩ := exists_fUnits_eq (a := m) (e := 125) (by omega) (by norm_num)
  rw [Nat.mul_comm, ← hm] at uz
  rcases le_total 0 (fUnits x - fUnits y) with h | h
  · have hz : fUnits x - fUnits y = fUnits z := by omega
    rw [hz]
    exact fSub_exact hx hy (not_nan_of_finite fz) hz
  · have hz : fUnits x - fUnits y = fUnits (fNeg z) := by rw [fUnits_fNeg]; omega
    rw [hz]
    exact fSub_exact hx hy (by rw [fIsNaN_fNeg, not_nan_of_finite fz]) hz

/-- Two F at most 1/2 apart have a finite difference of at most 1/2, on the side of the exact one. -/
theorem fSub_bounds_of_near {x y : F32} (hx : fIsFinite x = true) (hy : fIsFinite y = true)
    (near : (fUnits x - fUnits y).natAbs ≤ halfUnits) :
    fIsFinite (fSub x y) = true ∧ (fUnits (fSub x y)).natAbs ≤ halfUnits ∧
      (fUnits x ≤ fUnits y → fUnits (fSub x y) ≤ 0) ∧ (fUnits y ≤ fUnits x → 0 ≤ fUnits (fSub x y)) := by
  obtain ⟨half, fhalf, uhalf⟩ := exists_fUnits_eq (a := 1) (e := 148) (by norm_num) (by norm_num)
  have uhalf' : fUnits half = halfUnits := by rw [uhalf, Nat.one_mul, halfUnits]
  have uneg : fUnits (fNeg half) = -halfUnits := by rw [fUnits_fNeg, uhalf']
  have fneg : fIsFinite (fNeg half) = true := by rw [fIsFinite_fNeg, fhalf]
  have hzero := fOfNat_not_nan 0
  have hle := fSub_le hx hy (not_nan_of_finite fhalf) (by omega)
  have hge := le_fSub hx hy (not_nan_of_finite fneg) (by omega)
  refine ⟨finite_of_between fneg fhalf hge hle, by omega, fun h => ?_, fun h => ?_⟩
  · rw [← fUnits_zero]
    exact fSub_le hx hy hzero ((sub_nonpos.2 h).trans_eq fUnits_zero.symm)
  · rw [← fUnits_zero]
    exact le_fSub hx hy hzero (fUnits_zero.trans_le (sub_nonneg.2 h))

/-- From a in [-1, 1] to b in [-1, 1], at most 1/2 away: a and the rounded difference add up to no more. Where a is above 1/2 in
magnitude, either the difference is exact or it leads back towards zero. -/
theorem segment_end_of_near {a b : F32} (ha : fInRange (fOfInt (-1)) a (fOfNat 1) = true)
    (hb : fInRange (fOfInt (-1)) b (fOfNat 1) = true) (near : (fUnits b - fUnits a).natAbs ≤ halfUnits) :
    -(fOneUnits : Int) ≤ fUnits a + fUnits (fSub b a) ∧ fUnits a + fUnits (fSub b a) ≤ fOneUnits := by
  have fa := finite_of_inUnitRange ha
  have fb := finite_of_inUnitRange hb
  obtain ⟨_, alow, ahigh⟩ := (inUnitRange_iff a).1 ha
  obtain ⟨_, blow, bhigh⟩ := (inUnitRange_iff b).1 hb
  obtain ⟨_, hd, hneg, hpos⟩ := fSub_bounds_of_near fb fa near
  have amag := natAbs_fUnits a
  have bmag := natAbs_fUnits b
  have hone := fOneUnits_eq_halves
  by_cases hexact : halfUnits ≤ fMagnitude a ∧ halfUnits ≤ fMagnitude b
  · rw [fUnits_fSub_of_near fb fa hexact.2 hexact.1 near]
    omega
  · omega

/-- Neighbouring words of the ROM are at most 1/2 apart. -/
theorem sineRom_near : ∀ i < 512, (fUnits (sineRom ((i + 1) % 512)) - fUnits (sineRom i)).natAbs ≤ halfUnits := by
  decide +kernel

/-- A phase times 512 is exact: the exponent has room. -/
theorem fMul_512_phase {p : F32} (hp : fInUnit p = true) :
    fIsFinite (fMul p (fOfNat 512)) = true ∧ fUnits (fMul p (fOfNat 512)) = 512 * fUnits p := by
  obtain ⟨_, plow, phigh⟩ := (fInUnit_iff p).1 hp
  have fp := finite_of_inUnit hp
  obtain ⟨u512, f512⟩ := fOfNat_units (n := 512) (by norm_num)
  obtain ⟨e, q, hbits, hnormal, hq⟩ := pattern_split (fBits p)
  have up : fUnits p = (q * 2 ^ e : Nat) := by
    rw [← patternUnits_of hnormal hq.le, ← hbits, ← fMagnitude_eq, ← natAbs_fUnits, Int.natAbs_of_nonneg plow]
  have he : e ≤ 126 := by
    rcases hnormal with rfl | hq'
    · exact Nat.zero_le _
    · by_contra hlarge
      have hunits : 2 ^ 23 * 2 ^ 127 ≤ q * 2 ^ e := Nat.mul_le_mul hq' (Nat.pow_le_pow_right two_pos (by omega))
      rw [up, fOneUnits] at phigh
      omega
  obtain ⟨z, fz, uz⟩ := exists_fUnits_eq (a := q) (e := e + 9) hq.le (by omega)
  have hz : fUnits z = 512 * fUnits p := by
    rw [uz, up, pow_add]
    push_cast
    ring
  have hpos : fUnits (fMul p (fOfNat 512)) = fUnits z := by
    refine fMul_exact fp f512 (not_nan_of_finite fz) ?_
    rw [u512, hz]
    push_cast
    ring
  exact ⟨finite_of_fUnits_eq fz hpos, hpos.trans hz⟩

/-- The table position of a phase: the index of a segment. -/
theorem tableIndex_bounds {p : F32} (hp : fInUnit p = true) :
    0 ≤ fFloor (fMul p (fOfNat 512)) ∧ fFloor (fMul p (fOfNat 512)) < 512 := by
  obtain ⟨_, plow, phigh⟩ := (fInUnit_iff p).1 hp
  obtain ⟨fpos, upos⟩ := fMul_512_phase hp
  have hone : (0 : Int) < fOneUnits := Int.natCast_pos.2 fOneUnits_pos
  rw [fFloor, if_pos fpos, upos]
  exact ⟨Int.ediv_nonneg (by omega) hone.le, Int.ediv_lt_of_lt_mul hone (by omega)⟩

/-- What is left of the table position above its index lies in [0, 1]. -/
theorem tableFraction_bounds {p : F32} (hp : fInUnit p = true) :
    let r := fSub (fMul p (fOfNat 512)) (fOfNat (fFloor (fMul p (fOfNat 512))).toNat)
    fIsFinite r = true ∧ 0 ≤ fUnits r ∧ fUnits r ≤ fOneUnits := by
  obtain ⟨fpos, upos⟩ := fMul_512_phase hp
  obtain ⟨i0, i512⟩ := tableIndex_bounds hp
  dsimp only
  generalize hpos : fMul p (fOfNat 512) = pos at *
  obtain ⟨i, hi⟩ := Int.eq_ofNat_of_zero_le i0
  rw [hi, Int.toNat_natCast]
  obtain ⟨ui, fi⟩ := fOfNat_units (n := i) (by omega)
  have hone : (0 : Int) < fOneUnits := Int.natCast_pos.2 fOneUnits_pos
  have hdiff : fUnits pos - fUnits (fOfNat i) = fUnits pos % fOneUnits := by
    rw [fFloor, if_pos fpos] at hi
    rw [ui, Int.emod_def, hi, mul_comm]
  have hlow : fUnits (fOfNat 0) ≤ fUnits (fSub pos (fOfNat i)) :=
    le_fSub fpos fi (fOfNat_not_nan 0) (by rw [hdiff, fUnits_zero]; exact Int.emod_nonneg _ hone.ne')
  have hhigh : fUnits (fSub pos (fOfNat i)) ≤ fUnits (fOfNat 1) :=
    fSub_le fpos fi (fOfNat_not_nan 1) (by rw [hdiff, fUnits_one]; exact (Int.emod_lt_of_pos _ hone).le)
  exact ⟨finite_of_between (fOfNat_finite (Nat.zero_le _)) (fOfNat_finite (by norm_num)) hlow hhigh,
    fUnits_zero.symm.trans_le hlow, hhigh.trans_eq fUnits_one⟩

theorem tableSine_inUnitRange {p : F32} (hp : fInUnit p = true) :
    fInRange (fOfInt (-1)) (tableSine p) (fOfNat 1) = true := by
  obtain ⟨fr, r0, r1⟩ := tableFraction_bounds hp
  obtain ⟨i0, i512⟩ := tableIndex_bounds hp
  have near := sineRom_near (fFloor (fMul p (fOfNat 512))).toNat (by omega)
  have ha := sineRom_inUnitRange (fFloor (fMul p (fOfNat 512))).toNat
  have hb := sineRom_inUnitRange (((fFloor (fMul p (fOfNat 512))).toNat + 1) % 512)
  obtain ⟨fd, _⟩ := fSub_bounds_of_near (finite_of_inUnitRange hb) (finite_of_inUnitRange ha) near
  exact fAdd_fMul_inUnitRange ha fd fr r0 r1 (segment_end_of_near ha hb near)

/-! ### The sine -/

theorem sineSample_direct {cfg : Config} (h : cfg.sineMode = .direct) (p : F32) :
    sineSample cfg p = fMul (fOfNat 32767) (sinF (fMul twoPiF p)) := by
  simp only [sineSample, h, fullScale]

theorem sineSample_table {cfg : Config} (h : cfg.sineMode = .table) {p : F32} (hp : fInUnit p = true) :
    sineSample cfg p = fMul (fOfNat 32767) (tableSine p) := by
  simp only [sineSample, h, fullScale]
  exact if_pos hp

/-- A value in [-1, 1] at full scale. -/
theorem fMul_fullScale_inFullScale {x : F32} (h : fInRange (fOfInt (-1)) x (fOfNat 1) = true) :
    fInRange (fOfInt (-32767)) (fMul (fOfNat 32767) x) (fOfNat 32767) = true := by
  have fx := finite_of_inUnitRange h
  obtain ⟨_, low, high⟩ := (inUnitRange_iff x).1 h
  have fmax : fIsFinite (fOfNat 32767) = true := fOfNat_finite (by norm_num)
  have hpos := fUnits_fOfNat_nonneg 32767
  refine fInRange_units.2 ⟨fIsNaN_fOfInt _, ?_, fOfNat_not_nan _, le_fMul fmax fx (fIsNaN_fOfInt _) ?_,
    fMul_le fmax fx (fOfNat_not_nan _) (mul_le_mul_of_nonneg_left high hpos)⟩
  · rw [fMul_finite fmax fx]
    exact fIsNaN_fRound _ _ _
  · rw [fUnits_neg_fullScale, ← fUnits_fullScale, neg_mul_comm]
    exact mul_le_mul_of_nonneg_left low hpos

theorem sineSample_inFullScale {cfg : Config} {p : F32} (h : cfg.sineMode = .direct ∨ fInUnit p = true) :
    fInRange (fOfInt (-32767)) (sineSample cfg p) (fOfNat 32767) = true := by
  cases hmode : cfg.sineMode with
  | direct =>
    rw [sineSample_direct hmode]
    exact fMul_fullScale_inFullScale (sinF_inUnitRange _)
  | table =>
    have hp : fInUnit p = true := h.resolve_left (by simp [hmode])
    rw [sineSample_table hmode hp]
    exact fMul_fullScale_inFullScale (tableSine_inUnitRange hp)

/-! ### Scaling -/

/-- A factor of at most 1 in magnitude never makes a magnitude larger. -/
theorem fMagnitude_fMul_le {x y : F32} (hx : fIsFinite x = true) (hy : fIsFinite y = true) (h : fMagnitude y ≤ fOneUnits) :
    fMagnitude (fMul x y) ≤ fMagnitude x := by
  rw [fMul_finite hx hy, fMagnitude_eq, fMagnitude_eq x, fBits_fRound]
  refine patternUnits_strictMono.monotone (fRoundMagnitude_le fOneUnits_pos ?_)
  rw [← fMagnitude_eq]
  exact Nat.mul_le_mul_left _ h

/-- A finite F of at most 1 in magnitude: what a sample is scaled by. -/
structure IsFactor (x : F32) : Prop where
  finite : fIsFinite x = true
  magnitude : fMagnitude x ≤ fOneUnits

theorem isFactor_of_units {x : F32} (low : 0 ≤ fUnits x) (high : fUnits x ≤ fOneUnits) : IsFactor x where
  finite := finite_of_between (fOfNat_finite (Nat.zero_le _)) (fOfNat_finite (n := 1) (by norm_num))
    (fUnits_zero.trans_le low) (high.trans_eq fUnits_one.symm)
  magnitude := by
    rw [← natAbs_fUnits]
    omega

/-- A level from 0 to n, divided by n. -/
theorem isFactor_fDiv {x : F32} {n : Nat} (h1 : 1 ≤ n) (hn : n ≤ 2 ^ 24) (low : 0 ≤ fUnits x)
    (high : fUnits x ≤ fUnits (fOfNat n)) : IsFactor (fDiv x (fOfNat n)) := by
  have hx : fIsFinite x = true :=
    finite_of_between (fOfNat_finite (Nat.zero_le _)) (fOfNat_finite hn) (fUnits_zero.trans_le low) high
  obtain ⟨_, hge⟩ := fDiv_fOfNat_nonneg hx low h1 hn
  refine isFactor_of_units (fUnits_zero.symm.trans_le hge) ?_
  rw [← fUnits_one]
  refine fDiv_le hx (fOfNat_finite hn) (fOfNat_not_nan 1) (fUnits_fOfNat_pos h1 hn) ?_
  rw [fUnits_one, mul_comm]
  exact mul_le_mul_of_nonneg_left high (Int.natCast_nonneg _)

/-- Scaling by a factor keeps a sample finite and makes it no larger in magnitude. -/
theorem IsFactor.scaled {x y : F32} (hy : IsFactor y) (hx : fIsFinite x = true) :
    fIsFinite (fMul x y) = true ∧ fMagnitude (fMul x y) ≤ fMagnitude x := by
  have hle := fMagnitude_fMul_le hx hy.finite hy.magnitude
  exact ⟨finite_of_fMagnitude_lt (hle.trans_lt (fMagnitude_lt_of_finite hx)), hle⟩

theorem fMagnitude_scaleSample_le {raw e trem : F32} (velocity : BitVec 7) (hraw : fIsFinite raw = true)
    (he : fInRange (fOfNat 0) e (fOfNat 255) = true) (htrem : fInRange (fOfNat 0) trem (fOfNat 1) = true) :
    fMagnitude (scaleSample raw e velocity trem) ≤ fMagnitude raw := by
  obtain ⟨_, _, _, elow, ehigh⟩ := fInRange_units.1 he
  obtain ⟨_, _, _, tlow, thigh⟩ := fInRange_units.1 htrem
  rw [fUnits_zero] at elow tlow
  rw [fUnits_one] at thigh
  have henvelope := isFactor_fDiv (n := 255) (by norm_num) (by norm_num) elow ehigh
  have hvelocity : IsFactor (fDiv (fOfNat velocity.toNat) (fOfNat 127)) :=
    isFactor_fDiv (by norm_num) (by norm_num) (fUnits_fOfNat_nonneg _) (fUnits_fOfNat_le (by norm_num) (by omega))
  obtain ⟨f1, h1⟩ := henvelope.scaled hraw
  obtain ⟨f2, h2⟩ := hvelocity.scaled f1
  rw [scaleSample]
  split_ifs
  · obtain ⟨_, h3⟩ := (isFactor_of_units tlow thigh).scaled f2
    exact h3.trans (h2.trans h1)
  · exact h2.trans h1

/-! ### The statement -/

theorem fUnits_fOfInt_toInt (n : BitVec 16) : fUnits (fOfInt n.toInt) = n.toInt * fOneUnits := by
  have hlow := n.le_toInt
  have hhigh := n.toInt_lt
  norm_num at hlow hhigh
  exact (fOfInt_units (by omega)).1

/-- Settles O39. -/
theorem sampleRange : Obligations.SampleRange := by
  refine ⟨fun p hp => ?_, fun _ _ _ h => sineSample_inFullScale h,
    fun cfg lfsr _ => ⟨reduce16 cfg (lfsrStep cfg lfsr), rfl, fUnits_fOfInt_toInt _⟩,
    fun _ _ _ velocity hraw he htrem => fMagnitude_scaleSample_le velocity hraw he htrem⟩
  simp only [List.forall_mem_cons]
  exact ⟨squareSample_inFullScale p, sawtoothSample_inFullScale hp, triangleSample_inFullScale hp, List.forall_mem_nil _⟩

end Sys2Proof.Machine
end

-- Proofs of the family 42_voice.md: one sample of a voice.
section
/-! What one call of voiceGetSample does in its three cases (42_voice.md R150, R163, R164), and the raw samples by waveform (R152
to R157, R159). -/

namespace Sys2Proof.Machine

open Sys2Proof

/-! ### One call -/

theorem latchedWaveform_eq (cfg : Config) (setting : Waveform) (v : Voice) :
    latchedWaveform cfg setting v = if cfg.waveformLatch = .live then setting else v.waveform := by
  cases h : cfg.waveformLatch with
  | atNoteOn => simp [latchedWaveform, h]
  | live => simp [latchedWaveform, h]

/-- Only NOISE steps the LFSR. -/
theorem rawSample_lfsr (cfg : Config) (waveform : Waveform) (lfsr : Word) (p : F32) :
    (rawSample cfg waveform lfsr p).2 = if waveform = .noise then lfsrStep cfg lfsr else lfsr := by
  cases waveform <;> rfl

section

variable {cfg : Config} {v : Voice} (setting : Waveform) (vib trem : F32)

theorem voiceGetSample_inactive (h : v.active = false) : voiceGetSample cfg setting vib trem v = (0, v) := by
  simp [voiceGetSample, h]

/-- The call on which the envelope goes OFF. -/
theorem voiceGetSample_ending (h : v.active = true) (hoff : (envGet cfg v.env).2.state = .off) :
    voiceGetSample cfg setting vib trem v = (0, { v with active := false, env := (envGet cfg v.env).2 }) := by
  simp [voiceGetSample, h, hoff]

/-- A call with the envelope running. -/
theorem voiceGetSample_sounding (h : v.active = true) (hon : (envGet cfg v.env).2.state ≠ .off) :
    voiceGetSample cfg setting vib trem v =
      (toInt16 (scaleSample (rawSample cfg (latchedWaveform cfg setting v) v.lfsr (wavePhase cfg v.phase)).1
          (envGet cfg v.env).1 v.velocity trem),
        { v with
          waveform := latchedWaveform cfg setting v
          phase := advancePhase cfg v.phase (modulatedIncrement cfg v.inc vib)
          lfsr := if latchedWaveform cfg setting v = .noise then lfsrStep cfg v.lfsr else v.lfsr
          env := (envGet cfg v.env).2 }) := by
  simp [voiceGetSample, h, hon, rawSample_lfsr]

end

/-! ### The raw samples -/

theorem rawSample_sine_table {cfg : Config} (h : cfg.sineMode = .table) (lfsr : Word) {p : F32} (hp : fInUnit p = true) :
    (rawSample cfg .sine lfsr p).1 = fMul (fOfNat 32767) (tableSine p) := sineSample_table h hp

theorem rawSample_sine_direct {cfg : Config} (h : cfg.sineMode = .direct) (lfsr : Word) (p : F32) :
    (rawSample cfg .sine lfsr p).1 = fMul (fOfNat 32767) (sinF (fMul twoPiF p)) := sineSample_direct h p

theorem rawSample_noise (cfg : Config) (lfsr : Word) (p : F32) :
    (rawSample cfg .noise lfsr p).1 = fOfInt (reduce16 cfg (lfsrStep cfg lfsr)).toInt := rfl

theorem reduce16_low16 {cfg : Config} (h : cfg.noiseReduce = .low16) (st : Word) :
    reduce16 cfg st = st.extractLsb' 0 16 := by
  simp only [reduce16, h]

theorem reduce16_high16 {cfg : Config} (h : cfg.noiseReduce = .high16) (st : Word) :
    reduce16 cfg st = st.extractLsb' 16 16 := by
  simp only [reduce16, h]

/-- Settles O36. -/
theorem voiceSampleEffect : Obligations.VoiceSampleEffect := by
  refine ⟨fun cfg setting vib trem v => ?_, fun cfg lfsr p =>
    ⟨fun h hp => ?_, fun h => rawSample_sine_direct h lfsr p, rfl, rfl, rfl, ?_⟩⟩
  · dsimp only
    rw [← latchedWaveform_eq]
    exact ⟨voiceGetSample_inactive setting vib trem, voiceGetSample_ending setting vib trem,
      voiceGetSample_sounding setting vib trem⟩
  · obtain ⟨i0, i512⟩ := tableIndex_bounds hp
    exact ⟨by omega, rawSample_sine_table h lfsr hp⟩
  · rw [rawSample_noise]
    cases h : cfg.noiseReduce with
    | low16 => rw [reduce16_low16 h]
    | high16 => rw [reduce16_high16 h]

end Sys2Proof.Machine
end

-- Proofs of the family 43_lfo.md: the LFO's commands and its values.
section
/-! The LFO (43_lfo.md): what its commands write (R186 to R190), and the values of a sample (R181 to R185). The sine value
lies in [-1, 1] and the depth's fraction in [0, 1]; every operation's exact result then lies between two F, which rounding never
passes. -/

namespace Sys2Proof.Machine

open Sys2Proof

/-! ### The commands -/

/-- Settles O22. -/
theorem lfoSettingsEffect : Obligations.LfoSettingsEffect :=
  ⟨fun _ on h => ⟨exec_setLfoEnable h on, exec_setLfoVibrato h on, exec_setLfoTremolo h on⟩,
    fun _ _ h hx => ⟨exec_setLfoRate h hx, exec_setLfoDepth h hx⟩⟩

/-! ### One sample -/

theorem lfoStep_disabled {x : Settings} (h : x.lfoEnable = false) (cfg : Config) (inc phase : F32) :
    lfoStep cfg x inc phase = { vib := fOfNat 0, trem := fOfNat 1, phase := phase } := by simp [lfoStep, h]

section

variable {cfg : Config} {x : Settings} (hon : x.lfoEnable = true) (inc phase : F32)
include hon

theorem lfoStep_oneCall (h : cfg.lfoCallsPerSample = .one) : lfoStep cfg x inc phase = lfoOneCall x inc phase := by
  simp only [lfoStep, hon, h, if_true]

theorem lfoStep_twoCalls (h : cfg.lfoCallsPerSample = .two) : lfoStep cfg x inc phase = lfoTwoCalls x inc phase := by
  simp only [lfoStep, hon, h, if_true]

/-- However many calls a sample makes, its two values are those of the formulas at some sine values (43_lfo.md R182, R183). -/
theorem lfoStep_values :
    ∃ p q : F32,
      (lfoStep cfg x inc phase).vib = (if x.lfoVibrato then vibratoOf x.lfoDepth (sinF p) else fOfNat 0) ∧
      (lfoStep cfg x inc phase).trem = (if x.lfoTremolo then tremoloOf x.lfoDepth (sinF q) else fOfNat 1) := by
  cases h : cfg.lfoCallsPerSample with
  | one =>
    rw [lfoStep_oneCall hon inc phase h]
    exact ⟨_, _, rfl, rfl⟩
  | two =>
    rw [lfoStep_twoCalls hon inc phase h]
    exact ⟨_, _, rfl, rfl⟩

end

/-! ### The ranges -/

/-- Between finite ends no value is a NaN. -/
theorem fInRange_of_units {lo v hi : F32} (hlo : fIsFinite lo = true) (hhi : fIsFinite hi = true)
    (low : fUnits lo ≤ fUnits v) (high : fUnits v ≤ fUnits hi) : fInRange lo v hi = true :=
  fInRange_units.2 ⟨not_nan_of_finite hlo, not_nan_of_finite (finite_of_between hlo hhi low high), not_nan_of_finite hhi,
    low, high⟩

theorem fInRange_zero_one_iff (v : F32) :
    fInRange (fOfNat 0) v (fOfNat 1) = true ↔ 0 ≤ fUnits v ∧ fUnits v ≤ fOneUnits := by
  rw [← fUnits_zero, ← fUnits_one]
  refine ⟨fun h => ?_, fun ⟨low, high⟩ =>
    fInRange_of_units (fOfNat_finite (Nat.zero_le _)) (fOfNat_finite (by norm_num)) low high⟩
  obtain ⟨_, _, _, low, high⟩ := fInRange_units.1 h
  exact ⟨low, high⟩

/-- An F in [0, n], divided by n. -/
theorem fDiv_inZeroOne {v : F32} {n : Nat} (h1 : 1 ≤ n) (hn : n ≤ 2 ^ 24) (h : fInRange (fOfNat 0) v (fOfNat n) = true) :
    fInRange (fOfNat 0) (fDiv v (fOfNat n)) (fOfNat 1) = true := by
  obtain ⟨_, _, _, low, high⟩ := fInRange_units.1 h
  have fv := finite_of_between (fOfNat_finite (Nat.zero_le _)) (fOfNat_finite hn) low high
  rw [fUnits_zero] at low
  obtain ⟨_, hge⟩ := fDiv_fOfNat_nonneg fv low h1 hn
  have hfactor := isFactor_fDiv h1 hn low high
  have hle := hfactor.magnitude
  rw [← natAbs_fUnits] at hle
  rw [fUnits_zero] at hge
  exact (fInRange_zero_one_iff _).2 ⟨hge, by omega⟩

theorem isFactor_of_inUnitRange {v : F32} (h : fInRange (fOfInt (-1)) v (fOfNat 1) = true) : IsFactor v where
  finite := finite_of_inUnitRange h
  magnitude := by
    obtain ⟨_, low, high⟩ := (inUnitRange_iff v).1 h
    rw [← natAbs_fUnits]
    omega

theorem isFactor_of_inZeroOne {v : F32} (h : fInRange (fOfNat 0) v (fOfNat 1) = true) : IsFactor v :=
  isFactor_of_units ((fInRange_zero_one_iff v).1 h).1 ((fInRange_zero_one_iff v).1 h).2

/-- A factor of at most 1 in magnitude times a limit that is not negative stays between the limit and its negative. -/
theorem IsFactor.fMul_inRange {v limit : F32} (hv : IsFactor v) (hlimit : fIsFinite limit = true) (h0 : 0 ≤ fUnits limit) :
    fInRange (fNeg limit) (fMul v limit) limit = true := by
  have hm := hv.magnitude
  have hneg : fIsFinite (fNeg limit) = true := by rw [fIsFinite_fNeg, hlimit]
  rw [← natAbs_fUnits] at hm
  refine fInRange_of_units hneg hlimit (le_fMul hv.finite hlimit (not_nan_of_finite hneg) ?_)
    (fMul_le hv.finite hlimit (not_nan_of_finite hlimit) ?_)
  · rw [fUnits_fNeg, neg_mul_comm, mul_comm]
    exact mul_le_mul_of_nonneg_right (by omega) h0
  · rw [mul_comm]
    exact mul_le_mul_of_nonneg_left (by omega) h0

/-- A difference of finite F whose exact value lies in [0, n] lies in it. -/
theorem fSub_inRange {u v : F32} {n : Nat} (hu : fIsFinite u = true) (hv : fIsFinite v = true) (hn : n ≤ 2 ^ 24)
    (low : fUnits v ≤ fUnits u) (high : fUnits u - fUnits v ≤ n * fOneUnits) :
    fInRange (fOfNat 0) (fSub u v) (fOfNat n) = true :=
  fInRange_of_units (fOfNat_finite (Nat.zero_le _)) (fOfNat_finite hn)
    (le_fSub hu hv (fOfNat_not_nan 0) (fUnits_zero.trans_le (sub_nonneg.2 low)))
    (fSub_le hu hv (fOfNat_not_nan n) (high.trans_eq (fOfNat_units hn).1.symm))

/-- 1 - v for a value v of the sine. -/
theorem fSub_one_inZeroTwo {v : F32} (h : fInRange (fOfInt (-1)) v (fOfNat 1) = true) :
    fInRange (fOfNat 0) (fSub (fOfNat 1) v) (fOfNat 2) = true := by
  obtain ⟨_, low, high⟩ := (inUnitRange_iff v).1 h
  rw [← fUnits_one] at high
  refine fSub_inRange (fOfNat_finite (by norm_num)) (finite_of_inUnitRange h) (by norm_num) high ?_
  rw [fUnits_one]
  push_cast
  omega

theorem fMul_inZeroOne {v w : F32} (hv : fInRange (fOfNat 0) v (fOfNat 1) = true)
    (hw : fInRange (fOfNat 0) w (fOfNat 1) = true) : fInRange (fOfNat 0) (fMul v w) (fOfNat 1) = true := by
  obtain ⟨v0, v1⟩ := (fInRange_zero_one_iff v).1 hv
  obtain ⟨w0, w1⟩ := (fInRange_zero_one_iff w).1 hw
  obtain ⟨low, high⟩ := fMul_between_zero (isFactor_of_inZeroOne hv).finite (isFactor_of_inZeroOne hw).finite w0 w1
  exact (fInRange_zero_one_iff _).2 ⟨by omega, by omega⟩

theorem fSub_one_inZeroOne {v : F32} (h : fInRange (fOfNat 0) v (fOfNat 1) = true) :
    fInRange (fOfNat 0) (fSub (fOfNat 1) v) (fOfNat 1) = true := by
  obtain ⟨low, high⟩ := (fInRange_zero_one_iff v).1 h
  rw [← fUnits_one] at high
  refine fSub_inRange (fOfNat_finite (by norm_num)) (isFactor_of_inZeroOne h).finite (by norm_num) high ?_
  rw [fUnits_one]
  omega

/-- The limit of the vibrato, 0.02, is a finite F. -/
theorem fIsFinite_vibratoLimit : fIsFinite (fDecimal 2 100) = true :=
  (isFactor_of_units (fUnits_fDecimal_nonneg 2 100)
    (fUnits_one ▸ fUnits_fDecimal_le (by norm_num) (by norm_num) (by norm_num))).finite

section

variable {depth value : F32} (hdepth : fInRange (fOfNat 0) depth (fOfNat 100) = true)
  (hvalue : fInRange (fOfInt (-1)) value (fOfNat 1) = true)
include hdepth hvalue

/-- 43_lfo.md R184. -/
theorem vibratoOf_inRange : fInRange (fNeg (fDecimal 2 100)) (vibratoOf depth value) (fDecimal 2 100) = true := by
  have hd := isFactor_of_inZeroOne (fDiv_inZeroOne (n := 100) (by norm_num) (by norm_num) hdepth)
  have hv := isFactor_of_inUnitRange hvalue
  obtain ⟨fproduct, hproduct⟩ := hd.scaled hv.finite
  have hscaled : IsFactor (fMul value (fDiv depth (fOfNat 100))) := ⟨fproduct, hproduct.trans hv.magnitude⟩
  exact hscaled.fMul_inRange fIsFinite_vibratoLimit (fUnits_fDecimal_nonneg 2 100)

/-- 43_lfo.md R185. -/
theorem tremoloOf_inRange : fInRange (fOfNat 0) (tremoloOf depth value) (fOfNat 1) = true :=
  have hd := fDiv_inZeroOne (n := 100) (by norm_num) (by norm_num) hdepth
  have hhalf := fDiv_inZeroOne (n := 2) (by norm_num) (by norm_num) (fSub_one_inZeroTwo hvalue)
  fSub_one_inZeroOne (fMul_inZeroOne hd hhalf)

end

/-- The values of an enabled sample lie in their ranges, for any switches and any number of calls. -/
theorem lfoStep_inRange {x : Settings} (hon : x.lfoEnable = true)
    (hdepth : fInRange (fOfNat 0) x.lfoDepth (fOfNat 100) = true) (cfg : Config) (inc phase : F32) :
    fInRange (fNeg (fDecimal 2 100)) (lfoStep cfg x inc phase).vib (fDecimal 2 100) = true ∧
      fInRange (fOfNat 0) (lfoStep cfg x inc phase).trem (fOfNat 1) = true := by
  obtain ⟨p, q, hvib, htrem⟩ := lfoStep_values (cfg := cfg) hon inc phase
  rw [hvib, htrem]
  constructor
  · split_ifs
    · exact vibratoOf_inRange hdepth (sinF_inUnitRange p)
    · decide
  · split_ifs
    · exact tremoloOf_inRange hdepth (sinF_inUnitRange q)
    · decide

/-- Settles O42: the statement's formulas are lfoOneCall and lfoTwoCalls written out. -/
theorem lfoRanges : Obligations.LfoRanges := fun cfg _ inc phase =>
  ⟨fun hoff => lfoStep_disabled hoff cfg inc phase, fun hon hdepth => lfoStep_inRange hon hdepth cfg inc phase,
    fun hon => ⟨lfoStep_oneCall hon inc phase, lfoStep_twoCalls hon inc phase⟩⟩

end Sys2Proof.Machine
end

-- Proofs of the family 44_filter_eq.md: the commands of the filter and the EQ.
section
/-! The filter's and the EQ's commands (44_filter_eq.md R209 to R216): what each of their rules writes, as one record update,
and the coefficients of a band by its gain (R202, R203). -/

namespace Sys2Proof.Machine

open Sys2Proof

/-! ### The enable commands -/

/-- The state is cleared at a change from 0 to 1 and at no other write. -/
theorem filterEnableRule_eq (on : Bool) (s : State) :
    filterEnableRule on s =
      { s with
        settings := { s.settings with filterEnable := on }
        svf := if on = true ∧ s.settings.filterEnable = false then { low := 0, band := 0 } else s.svf } := by
  simp only [filterEnableRule, Bool.and_eq_true, Bool.not_eq_true']
  split_ifs <;> rfl

theorem eqEnableRule_eq (on : Bool) (s : State) :
    eqEnableRule on s =
      { s with
        settings := { s.settings with eqEnable := on }
        eq := if on = true ∧ s.settings.eqEnable = false then Vector.replicate 3 silentBand else s.eq } := by
  simp only [eqEnableRule, Bool.and_eq_true, Bool.not_eq_true']
  split_ifs <;> rfl

/-- Settles O23. -/
theorem filterAndEqEnableEffect : Obligations.FilterAndEqEnableEffect := fun s on h =>
  ⟨by rw [exec_setFilterEnable h, filterEnableRule_eq], by rw [exec_setEqEnable h, eqEnableRule_eq]; rfl⟩

/-! ### The filter's settings -/

theorem filterTypeCode_filterTypeOfCode (n : Nat) : (filterTypeCode (filterTypeOfCode n)).toNat = min n 2 := by
  obtain rfl | rfl | h : n = 0 ∨ n = 1 ∨ 2 ≤ n := by omega
  · rfl
  · rfl
  · rw [filterTypeOfCode, Nat.min_eq_right h]
    rfl

/-- Settles O24: both commands that change a coefficient recompute both (44_filter_eq.md R195). -/
theorem filterSettingsEffect : Obligations.FilterSettingsEffect := fun _ h =>
  ⟨fun code => ⟨filterTypeOfCode code.toNat, filterTypeCode_filterTypeOfCode _, exec_setFilterType h code⟩,
    fun _ hx => ⟨exec_setFilterCutoff h hx, exec_setFilterResonance h hx⟩⟩

/-! ### The gains -/

/-- A vector of three is its entries. -/
theorem vector_three_eta {α : Type} (v : Vector α 3) : v = #v[v[0], v[1], v[2]] := by
  ext i hi
  interval_cases i <;> rfl

section

variable {α : Type} (v : Vector α 3) (a : α)

theorem vector_three_set_zero : v.set 0 a = #v[a, v[1], v[2]] := (vector_three_eta _).trans (by simp)

theorem vector_three_set_one : v.set 1 a = #v[v[0], a, v[2]] := (vector_three_eta _).trans (by simp)

theorem vector_three_set_two : v.set 2 a = #v[v[0], v[1], a] := (vector_three_eta _).trans (by simp)

end

/-! ### The coefficients of a band -/

theorem finite_of_fMagnitude_zero {x : F32} (h : fMagnitude x = 0) : fIsFinite x = true :=
  finite_of_fMagnitude_lt (by rw [h]; positivity)

theorem not_nan_of_fMagnitude_zero {x : F32} (h : fMagnitude x = 0) : fIsNaN x = false :=
  not_nan_of_finite (finite_of_fMagnitude_zero h)

/-- The test for zero gain is met by +0 and -0 alone. -/
theorem fEq_zero_iff (x : F32) : fEq x (fOfNat 0) = true ↔ fMagnitude x = 0 := by
  rw [fEq_iff, fUnits_zero, fUnits_eq_zero_iff]
  exact ⟨fun ⟨_, _, h⟩ => h, fun h => ⟨not_nan_of_fMagnitude_zero h, fOfNat_not_nan 0, h⟩⟩

theorem bandCoefOf_zero_gain {gain : F32} (h : fMagnitude gain = 0) (centre : Nat) (rate : Word) :
    bandCoefOf centre gain rate = identityCoef := if_pos ((fEq_zero_iff gain).2 h)

theorem bandCoefOf_nonzero_gain {gain : F32} (h : fMagnitude gain ≠ 0) (centre : Nat) (rate : Word) :
    bandCoefOf centre gain rate = cookbookCoef centre gain rate := if_neg (mt (fEq_zero_iff gain).1 h)

theorem fOfNat_zero_pattern : fOfNat 0 = 0 := by decide

theorem fOfNat_one_pattern : fOfNat 1 = 0x3F800000 := by decide

/-- Settles O25: a command replaces one entry of EQ_COEF. -/
theorem eqGainsAndCoefficients : Obligations.EqGainsAndCoefficients := by
  refine ⟨fun s x h hx => ?_, fun centre gain rate => ⟨fun h0 => ?_, fun h0 _ => bandCoefOf_nonzero_gain h0 centre rate⟩⟩
  · rw [exec_setEqBassGain h hx, exec_setEqMidGain h hx, exec_setEqTrebleGain h hx]
    refine ⟨?_, ?_, ?_⟩
    · rw [bassGainRule, vector_three_set_zero]
      rfl
    · rw [midGainRule, vector_three_set_one]
      rfl
    · rw [trebleGainRule, vector_three_set_two]
      rfl
  · rw [bandCoefOf_zero_gain h0, identityCoef, fOfNat_zero_pattern, fOfNat_one_pattern]

end Sys2Proof.Machine
end

-- Proofs of the family 44_filter_eq.md: one sample, and the effects that change none.
section
/-! One sample through the filter and the EQ (44_filter_eq.md R196, R200, R201). An F other than -0 keeps its pattern when a zero
of either sign is added or subtracted, and a product with a zero is a zero; so zero gains, wet 0 and mix 0 leave a sample as it
is (44_filter_eq.md R205; 45_reverb_delay.md R228, R245). -/

namespace Sys2Proof.Machine

open Sys2Proof

/-- Settles O44: the model's functions are the rules' statements in their order, and each type selects one of three values. -/
theorem filterAndEqSample : Obligations.FilterAndEqSample :=
  ⟨fun _ _ _ _ => ⟨rfl, rfl, rfl⟩, fun _ _ _ => rfl, fun _ _ _ => rfl⟩

/-! ### Zeros -/

theorem fMagnitude_fNeg (x : F32) : fMagnitude (fNeg x) = fMagnitude x := by
  rw [fMagnitude_eq, fMagnitude_eq, fBits_fNeg]

/-- A finite F other than -0: its sign is that of its value. -/
theorem fPlain_iff (x : F32) : fPlain x = true ↔ fIsFinite x = true ∧ fSign x = decide (fUnits x < 0) := by
  have hzero : fUnits (0x80000000 : F32) = 0 ∧ fSign (0x80000000 : F32) = true := by decide
  rw [fPlain, Bool.and_eq_true, bne_iff_ne]
  refine and_congr_right fun _ => ⟨fun hne => ?_, ?_⟩
  · cases hs : fSign x with
    | false => exact (decide_eq_false (not_lt.2 (fUnits_nonneg hs))).symm
    | true =>
      have hunits : fUnits x ≠ 0 := fun h => hne (eq_of_fUnits_eq (h.trans hzero.1.symm) (hs.trans hzero.2.symm))
      have hvalue : fUnits x = -(fMagnitude x : Int) := by rw [fUnits_eq, hs]; rfl
      exact (decide_eq_true (by omega)).symm
  · rintro hs rfl
    rw [hzero.1, hzero.2] at hs
    exact absurd hs (by decide)

theorem finite_of_fPlain {x : F32} (h : fPlain x = true) : fIsFinite x = true := ((fPlain_iff x).1 h).1

theorem fAdd_fMagnitude_zero {x z : F32} (hx : fPlain x = true) (hz : fMagnitude z = 0) : fAdd x z = x := by
  obtain ⟨hfin, hsign⟩ := (fPlain_iff x).1 hx
  have hunits := (fUnits_eq_zero_iff z).2 hz
  have hzfin := finite_of_fMagnitude_zero hz
  apply eq_of_fUnits_eq
  · exact fAdd_exact hfin hzfin (not_nan_of_finite hfin) (by rw [hunits, add_zero])
  · rw [fAdd_finite hfin hzfin, fSign_fRound, hunits, add_zero, hsign]
    split_ifs with h
    · simp [h]
    · rfl

theorem fSub_eq_fAdd_fNeg {x y : F32} (hx : fIsFinite x = true) (hy : fIsFinite y = true) :
    fSub x y = fAdd x (fNeg y) := by
  rw [fSub_finite hx hy, fAdd_finite hx (by rw [fIsFinite_fNeg, hy]), fUnits_fNeg, fSign_fNeg, sub_eq_add_neg]

theorem fSub_fMagnitude_zero {x z : F32} (hx : fPlain x = true) (hz : fMagnitude z = 0) : fSub x z = x := by
  have hfin := finite_of_fPlain hx
  rw [fSub_eq_fAdd_fNeg hfin (finite_of_fMagnitude_zero hz), fAdd_fMagnitude_zero hx (by rw [fMagnitude_fNeg, hz])]

theorem fMul_comm_of_finite {x y : F32} (hx : fIsFinite x = true) (hy : fIsFinite y = true) : fMul x y = fMul y x := by
  rw [fMul_finite hx hy, fMul_finite hy hx, Nat.mul_comm, bne_comm]

/-- A product with a zero is a zero. -/
theorem fMagnitude_fMul_zero {x z : F32} (hx : fIsFinite x = true) (hz : fMagnitude z = 0) : fMagnitude (fMul x z) = 0 := by
  have hunits := (fUnits_eq_zero_iff z).2 hz
  rw [← fUnits_eq_zero_iff, ← hunits]
  exact fMul_exact hx (finite_of_fMagnitude_zero hz) (not_nan_of_fMagnitude_zero hz) (by rw [hunits, mul_zero, zero_mul])

theorem fMagnitude_fOfNat_zero : fMagnitude (fOfNat 0) = 0 := (fUnits_eq_zero_iff _).1 fUnits_zero

theorem fMagnitude_fOfNat_zero_fMul {x : F32} (hx : fIsFinite x = true) : fMagnitude (fMul (fOfNat 0) x) = 0 := by
  rw [fMul_comm_of_finite (fOfNat_finite (Nat.zero_le _)) hx]
  exact fMagnitude_fMul_zero hx fMagnitude_fOfNat_zero

/-! ### The EQ at zero gain -/

/-- The four stored samples of a band are finite. -/
def FiniteHistory (h : EqHistory) : Prop :=
  fIsFinite h.x1 = true ∧ fIsFinite h.x2 = true ∧ fIsFinite h.y1 = true ∧ fIsFinite h.y2 = true

/-- A band's history after it has let a sample through. -/
def passedHistory (x : F32) (h : EqHistory) : EqHistory := { x1 := x, x2 := h.x1, y1 := x, y2 := h.y1 }

theorem finiteHistory_passedHistory {x : F32} {h : EqHistory} (hx : fIsFinite x = true) (hh : FiniteHistory h) :
    FiniteHistory (passedHistory x h) := by
  obtain ⟨hx1, _, hy1, _⟩ := hh
  exact ⟨hx, hx1, hx, hy1⟩

/-- Beside 1 × x every term of a band with the identity coefficients is a zero. -/
theorem biquadRun_identity {x : F32} {h : EqHistory} (hx : fPlain x = true) (hh : FiniteHistory h) :
    biquadRun identityCoef x h = (x, passedHistory x h) := by
  obtain ⟨hx1, hx2, hy1, hy2⟩ := hh
  have hfin := finite_of_fPlain hx
  have hone : fMul (fOfNat 1) x = x := by
    rw [fMul_comm_of_finite (fOfNat_finite (by norm_num)) hfin, fMul_fOfNat_one hfin]
  rw [biquadRun, identityCoef, hone, fAdd_fMagnitude_zero hx (fMagnitude_fOfNat_zero_fMul hx1),
    fAdd_fMagnitude_zero hx (fMagnitude_fOfNat_zero_fMul hx2), fSub_fMagnitude_zero hx (fMagnitude_fOfNat_zero_fMul hy1),
    fSub_fMagnitude_zero hx (fMagnitude_fOfNat_zero_fMul hy2), passedHistory]

theorem eqRun_identity {x : F32} {hs : Vector EqHistory 3} (hx : fPlain x = true) (hh : ∀ h ∈ hs.toList, FiniteHistory h) :
    eqRun #v[identityCoef, identityCoef, identityCoef] x hs = (x, hs.map (passedHistory x)) := by
  have hbass := biquadRun_identity hx (hh hs[0] (by simp))
  have hmid := biquadRun_identity hx (hh hs[1] (by simp))
  have htreble := biquadRun_identity hx (hh hs[2] (by simp))
  have hmap : hs.map (passedHistory x) = #v[passedHistory x hs[0], passedHistory x hs[1], passedHistory x hs[2]] :=
    (vector_three_eta _).trans (by simp)
  simp [hmap, eqRun, hbass, hmid, htreble]

theorem eqRun_zero_gain {x : F32} {hs : Vector EqHistory 3} (rate : Word) (hx : fPlain x = true)
    (hh : ∀ h ∈ hs.toList, FiniteHistory h) :
    eqRun #v[bandCoefOf 120 0 rate, bandCoefOf 1000 0 rate, bandCoefOf 8000 0 rate] x hs = (x, hs.map (passedHistory x)) := by
  have hgain : fMagnitude (0 : F32) = 0 := by decide
  rw [bandCoefOf_zero_gain hgain, bandCoefOf_zero_gain hgain, bandCoefOf_zero_gain hgain, eqRun_identity hx hh]

/-! ### Blends -/

/-- A blend with the whole of one sample and none of the other. -/
theorem fAdd_fMul_one_zero {x v : F32} (hx : fPlain x = true) (hv : fIsFinite v = true) :
    fAdd (fMul x (fOfNat 1)) (fMul v (fOfNat 0)) = x := by
  rw [fMul_fOfNat_one (finite_of_fPlain hx)]
  exact fAdd_fMagnitude_zero hx (fMagnitude_fMul_zero hv fMagnitude_fOfNat_zero)

theorem reverbBlend_zero_wet {x v : F32} (hx : fPlain x = true) (hv : fIsFinite v = true) :
    reverbBlend (fOfNat 0) x v = x := by
  rw [reverbBlend, fSub_fOfNat (by norm_num) (by norm_num), Nat.sub_zero]
  exact fAdd_fMul_one_zero hx hv

theorem delayBlend_zero_mix {x dl : F32} (hx : fPlain x = true) (hdl : fIsFinite dl = true) :
    delayBlend (fOfNat 0) x dl = x := by
  have hdry : fDiv (fSub (fOfNat 100) (fOfNat 0)) (fOfNat 100) = fOfNat 1 := by
    rw [fSub_fOfNat (by norm_num) (by norm_num), Nat.sub_zero]
    exact fDiv_fOfNat_self (by norm_num) (by norm_num)
  have hwet : fDiv (fOfNat 0) (fOfNat 100) = fOfNat 0 := by
    have h := fDiv_fOfNat (k := 0) (n := 100) (by norm_num) (by norm_num) (by norm_num) (by norm_num)
    rwa [Nat.zero_mul] at h
  rw [delayBlend, hdry, hwet]
  exact fAdd_fMul_one_zero hx hdl

/-- Settles O45. -/
theorem neutralEffects : Obligations.NeutralEffects := by
  refine ⟨fun rate x hs hx hh => ?_, fun x v hx hv => ?_, fun x dl hx hdl => ?_⟩
  · rw [eqRun_zero_gain rate hx hh]
    refine ⟨rfl, fun h hmem => ?_⟩
    obtain ⟨h', hmem', rfl⟩ : ∃ h' ∈ hs.toList, passedHistory x h' = h := by simpa using hmem
    exact finiteHistory_passedHistory (finite_of_fPlain hx) (hh h' hmem')
  · rw [← fOfNat_zero_pattern, reverbBlend_zero_wet hx hv]
  · rw [← fOfNat_zero_pattern, delayBlend_zero_mix hx hdl]

end Sys2Proof.Machine
end

-- Proofs of the family 45_reverb_delay.md: the commands of the reverb and the delay.
section
/-! The reverb's and the delay's commands (45_reverb_delay.md R238 to R245): what each rule writes, and what an allocation that
fits or does not fit leaves (R222, R234). -/

namespace Sys2Proof.Machine

open Sys2Proof

/-! ### The settings -/

/-- Settles O26. -/
theorem effectSettings : Obligations.EffectSettings :=
  ⟨fun _ _ h hx => ⟨exec_setReverbRoomSize h hx, exec_setReverbDamping h hx, exec_setReverbWet h hx⟩,
    fun _ _ h hx => ⟨exec_setDelayTime h hx, exec_setDelayFeedback h hx, exec_setDelayMix h hx⟩⟩

/-! ### Writing an enable as it is -/

section

variable {s : State}

theorem withReverbEnable_of_eq {on : Bool} (h : s.settings.reverbEnable = on) : s.withReverbEnable on = s := by
  subst h
  rfl

theorem withDelayEnable_of_eq {on : Bool} (h : s.settings.delayEnable = on) : s.withDelayEnable on = s := by
  subst h
  rfl

end

/-! ### A request by whether it fits -/

/-- The pool with the reverb's block of these lengths (45_reverb_delay.md R222, R224). -/
def reverbPlaced (lengths : Vector Nat 6) (p : Pool) : Pool :=
  { p with
    mem := clearRegion p.mem 0 lengths.toList.sum
    free := p.free - BitVec.ofNat 32 lengths.toList.sum
    rev := { allocated := true, base := 0, len := lengths.map (BitVec.ofNat 32), idx := Vector.replicate 6 0,
             fs := Vector.replicate 4 0 } }

/-- The pool with the delay's words at the top of buffer memory (45_reverb_delay.md R234). -/
def delayPlaced (memWords : Nat) (delayN : Word) (p : Pool) : Pool :=
  { p with
    mem := clearRegion p.mem (memWords - delayN.toNat) delayN.toNat
    free := p.free - delayN
    dly := { allocated := true, base := BitVec.ofNat 32 (memWords - delayN.toNat), size := delayN, wp := 0 } }

section

variable {cfg : Config} {rate delayN : Word} {p : Pool}

theorem tryReverb_of_fit (h : (reverbLengths cfg rate).toList.sum ≤ p.free.toNat) :
    tryReverb cfg rate p = some (reverbPlaced (reverbLengths cfg rate) p) := if_neg (not_lt.2 h)

theorem tryReverb_of_not_fit (h : p.free.toNat < (reverbLengths cfg rate).toList.sum) : tryReverb cfg rate p = none :=
  if_pos h

theorem tryDelay_of_fit (h : delayN.toNat ≤ p.free.toNat) :
    tryDelay cfg delayN p = some (delayPlaced cfg.memWords delayN p) := if_neg (not_lt.2 h)

theorem tryDelay_of_not_fit (h : p.free.toNat < delayN.toNat) : tryDelay cfg delayN p = none := if_pos h

theorem readCell_reverbPlaced (lengths : Vector Nat 6) (p : Pool) (a : Nat) :
    readCell (reverbPlaced lengths p).mem a = if a < lengths.toList.sum then 0 else readCell p.mem a := by
  simp [reverbPlaced, readCell_clearRegion]

theorem readCell_delayPlaced (memWords : Nat) (delayN : Word) (p : Pool) (a : Nat) :
    readCell (delayPlaced memWords delayN p).mem a =
      if memWords - delayN.toNat ≤ a ∧ a < memWords - delayN.toNat + delayN.toNat then 0 else readCell p.mem a :=
  readCell_clearRegion _ _ _ _

end

/-! ### The enable commands -/

section

variable {s : State}

theorem reverbEnableRule_enable (h : s.settings.reverbEnable = false) : reverbEnableRule true s = reverbAlloc s := by
  simp [reverbEnableRule, h]

theorem reverbEnableRule_disable (h : s.settings.reverbEnable = true) : reverbEnableRule false s = reverbFree s := by
  simp [reverbEnableRule, h]

theorem delayEnableRule_enable (h : s.settings.delayEnable = false) : delayEnableRule true s = delayAlloc s := by
  simp [delayEnableRule, h]

theorem delayEnableRule_disable (h : s.settings.delayEnable = true) : delayEnableRule false s = delayFree s := by
  simp [delayEnableRule, h]

end

/-- Writing an enable's own value neither allocates nor frees. -/
theorem reverbEnableRule_self (s : State) : reverbEnableRule s.settings.reverbEnable s = s := by
  simp [reverbEnableRule]

theorem delayEnableRule_self (s : State) : delayEnableRule s.settings.delayEnable s = s := by
  simp [delayEnableRule]

/-- Settles O27. -/
theorem setReverbEnableEffect : Obligations.SetReverbEnableEffect := by
  intro s hrun
  have exec_rule := exec_setReverbEnable hrun
  refine ⟨fun hoff hfit => ⟨_, (exec_rule true).trans ?_, readCell_reverbPlaced _ s.pool⟩,
    fun hoff hfit => (exec_rule true).trans ?_, fun hon => (exec_rule false).trans ?_, ?_⟩
  · rw [reverbEnableRule_enable hoff, reverbAlloc_fits (tryReverb_of_fit hfit)]
    rfl
  · rw [reverbEnableRule_enable hoff, reverbAlloc_fails (tryReverb_of_not_fit hfit),
      withReverbEnable_of_eq (s := s.record .reverbAlloc) hoff]
  · rw [reverbEnableRule_disable hon]
    rfl
  · rw [exec_rule, reverbEnableRule_self]

/-- Settles O28. -/
theorem setDelayEnableEffect : Obligations.SetDelayEnableEffect := by
  intro s hrun
  have exec_rule := exec_setDelayEnable hrun
  refine ⟨fun hoff hfit => ⟨_, (exec_rule true).trans ?_, readCell_delayPlaced _ _ s.pool⟩,
    fun hoff hfit => (exec_rule true).trans ?_, fun hon => (exec_rule false).trans ?_, ?_⟩
  · rw [delayEnableRule_enable hoff, delayAlloc_fits (tryDelay_of_fit hfit)]
    rfl
  · rw [delayEnableRule_enable hoff, delayAlloc_fails (tryDelay_of_not_fit hfit),
      withDelayEnable_of_eq (s := s.record .delayAlloc) hoff]
  · rw [delayEnableRule_disable hon]
    rfl
  · rw [exec_rule, delayEnableRule_self]

end Sys2Proof.Machine
end

-- Proofs of the family 45_reverb_delay.md: one sample through the reverb.
section
/-! One sample through a comb, an allpass and the whole reverb (45_reverb_delay.md R225 to R227). A comb or an allpass moves the
index of its own buffer alone, so the word that each of the six reaches is the one at its index before the sample. -/

namespace Sys2Proof.Machine

open Sys2Proof

/-! ### One buffer -/

/-- Buffer j's index lies inside the buffer, and the word at it inside buffer memory. -/
def IndexInside (cfg : Config) (p : Pool) (j : Fin 6) : Prop :=
  p.rev.idx[j].toNat < p.rev.len[j].toNat ∧ bufferBase p.rev j + p.rev.idx[j].toNat < cfg.memWords

/-- The word index of the word at buffer j's index. -/
def indexedWord (p : Pool) (j : Fin 6) : Nat := bufferBase p.rev j + p.rev.idx[j].toNat

/-- The damping store of a comb after a delayed value (45_reverb_delay.md R225). -/
def combStore (damp y store : F32) : F32 := fAdd (fMul y (fSub (fOfNat 1) damp)) (fMul store damp)

section

variable {cfg : Config} {p : Pool}

theorem readBuffer_of_inside {j : Fin 6} (h : IndexInside cfg p j) :
    readBuffer cfg p j p.rev.idx[j] = .ok (readCell p.mem (indexedWord p j)) := memRead_of_lt h.1 h.2

theorem writeBuffer_of_inside {j : Fin 6} (h : IndexInside cfg p j) (v : F32) :
    writeBuffer cfg p j p.rev.idx[j] v = .ok { p with mem := writeCell p.mem (indexedWord p j) v } :=
  memWrite_of_lt h.1 h.2

theorem combRun_of_inside {c : Fin 4} (h : IndexInside cfg p (c.castLE (by decide))) (fb damp x : F32) :
    combRun cfg fb damp x c p =
      (let j : Fin 6 := c.castLE (by decide)
       let y := readCell p.mem (indexedWord p j)
       let store := combStore damp y p.rev.fs[c]
       .ok (y,
        { p with
          mem := writeCell p.mem (indexedWord p j) (fAdd x (fMul store fb))
          rev := advanceIndex { p.rev with fs := p.rev.fs.set c store } j })) := by
  simp only [combRun, readBuffer_of_inside h, writeBuffer_of_inside h, combStore]

theorem allpassRun_of_inside {j : Fin 6} (h : IndexInside cfg p j) (v : F32) :
    allpassRun cfg v j p =
      (let b := readCell p.mem (indexedWord p j)
       .ok (fSub b v,
        { p with
          mem := writeCell p.mem (indexedWord p j) (fAdd v (fMul b (fDecimal 1 2)))
          rev := advanceIndex p.rev j })) := by
  simp only [allpassRun, readBuffer_of_inside h, writeBuffer_of_inside h]

end

/-! ### All six in turn -/

section

variable {cfg : Config} {p : Pool} {js : List (Fin 6)}

/-- A run over one buffer leaves the indices of the others inside. -/
theorem ReverbRan.indexInside {p' : Pool} {j k : Fin 6} (h : ReverbRan [j] p p') (hk : k ≠ j) (hin : IndexInside cfg p k) :
    IndexInside cfg p' k := by
  have hidx := h.idx k (by simpa using hk)
  rwa [IndexInside, hidx, h.len, bufferBase_congr h.base h.len]

/-- A comb answers and leaves the buffers after it to run. -/
theorem combRun_then {c : Fin 4} (fb damp x : F32) (hj : (c.castLE (by decide) : Fin 6) ∉ js)
    (h : ∀ k ∈ (c.castLE (by decide) : Fin 6) :: js, IndexInside cfg p k) :
    ∃ r, combRun cfg fb damp x c p = .ok r ∧ ∀ k ∈ js, IndexInside cfg r.2 k := by
  obtain ⟨hhead, htail⟩ := List.forall_mem_cons.1 h
  have hrun := combRun_of_inside hhead fb damp x
  exact ⟨_, hrun, fun k hk => (combRun_ok hrun).indexInside (ne_of_mem_of_not_mem hk hj) (htail k hk)⟩

/-- An allpass answers and leaves the buffers after it to run. -/
theorem allpassRun_then {j : Fin 6} (v : F32) (hj : j ∉ js) (h : ∀ k ∈ j :: js, IndexInside cfg p k) :
    ∃ r, allpassRun cfg v j p = .ok r ∧ ∀ k ∈ js, IndexInside cfg r.2 k := by
  obtain ⟨hhead, htail⟩ := List.forall_mem_cons.1 h
  have hrun := allpassRun_of_inside hhead v
  exact ⟨_, hrun, fun k hk => (allpassRun_ok hrun).indexInside (ne_of_mem_of_not_mem hk hj) (htail k hk)⟩

end

/-- The reverb is its four combs in turn, its two allpasses in series and the blend. -/
theorem reverbRun_of_inside (cfg : Config) (x : Settings) (fb input : F32) (p : Pool) (h : ∀ j, IndexInside cfg p j) :
    ∃ c0 c1 c2 c3 a4 a5 : F32 × Pool,
      combRun cfg fb x.reverbDamping input 0 p = .ok c0 ∧ combRun cfg fb x.reverbDamping input 1 c0.2 = .ok c1 ∧
      combRun cfg fb x.reverbDamping input 2 c1.2 = .ok c2 ∧ combRun cfg fb x.reverbDamping input 3 c2.2 = .ok c3 ∧
      allpassRun cfg (fDiv (fAdd (fAdd (fAdd (fAdd (fOfNat 0) c0.1) c1.1) c2.1) c3.1) (fOfNat 4)) 4 c3.2 = .ok a4 ∧
      allpassRun cfg a4.1 5 a4.2 = .ok a5 ∧
      reverbRun cfg x fb input p = .ok (reverbBlend x.reverbWet input a5.1, a5.2) := by
  obtain ⟨c0, h0, left⟩ := combRun_then (c := 0) (js := [1, 2, 3, 4, 5]) fb x.reverbDamping input (by decide) fun j _ => h j
  obtain ⟨c1, h1, left⟩ := combRun_then (c := 1) (js := [2, 3, 4, 5]) fb x.reverbDamping input (by decide) left
  obtain ⟨c2, h2, left⟩ := combRun_then (c := 2) (js := [3, 4, 5]) fb x.reverbDamping input (by decide) left
  obtain ⟨c3, h3, left⟩ := combRun_then (c := 3) (js := [4, 5]) fb x.reverbDamping input (by decide) left
  obtain ⟨a4, h4, left⟩ := allpassRun_then (j := 4) (js := [5])
    (fDiv (fAdd (fAdd (fAdd (fAdd (fOfNat 0) c0.1) c1.1) c2.1) c3.1) (fOfNat 4)) (by decide) left
  obtain ⟨a5, h5, _⟩ := allpassRun_then (j := 5) (js := []) a4.1 (by decide) left
  refine ⟨c0, c1, c2, c3, a4, a5, h0, h1, h2, h3, h4, h5, ?_⟩
  simp only [reverbRun, combsRun, allpassesRun, h0, h1, h2, h3, h4, h5]

/-- Settles O47. -/
theorem combAndAllpassEffect : Obligations.CombAndAllpassEffect := by
  refine ⟨fun cfg fb damp x c p => ?_, reverbRun_of_inside, fun cfg v j p => ?_⟩
  · intro j i a hi ha hwf y store
    exact ⟨_, combRun_of_inside ⟨hi, ha⟩ fb damp x, fun b => readCell_writeCell _ b _ hwf⟩
  · intro i a hi ha hwf b
    exact ⟨_, allpassRun_of_inside ⟨hi, ha⟩ v, fun c => readCell_writeCell _ c _ hwf⟩

end Sys2Proof.Machine
end

-- Proofs of the family 45_reverb_delay.md: the delay line.
section
/-! The delay line (45_reverb_delay.md R236, R237). With feedback 0 and mix 100 a sample is stored as it is and the delayed one
given back as it is, so the DELAY_D words behind the write position are a queue: its front is read and the input joins its
back. -/

namespace Sys2Proof.Machine

open Sys2Proof

/-! ### Indices around the line -/

theorem mod_of_lt_two_mul {a n : Nat} (h : a < 2 * n) : a % n = if a < n then a else a - n := by
  split_ifs with hlt
  · exact Nat.mod_eq_of_lt hlt
  · rw [Nat.mod_eq_sub_mod (by omega), Nat.mod_eq_of_lt (by omega)]

theorem delayReadIndex_eq {dly : Delay} {delayD : Word} (h : delayD.toNat ≤ dly.size.toNat) :
    delayReadIndex dly delayD = (dly.wp.toNat + dly.size.toNat - delayD.toNat) % dly.size.toNat := by
  rw [delayReadIndex, ← Int.natCast_add, ← Int.natCast_sub (by omega), ← Int.natCast_emod, Int.toNat_natCast]

theorem advanced_toNat (a : Nat) {n : Word} (h : 0 < n.toNat) : (BitVec.ofNat 32 (a % n.toNat)).toNat = a % n.toNat := by
  rw [BitVec.toNat_ofNat, Nat.mod_eq_of_lt ((Nat.mod_lt a h).trans n.isLt)]

/-! ### The dry and the wet part at feedback 0 and mix 100 -/

theorem fAdd_comm_of_finite {x y : F32} (hx : fIsFinite x = true) (hy : fIsFinite y = true) : fAdd x y = fAdd y x := by
  rw [fAdd_finite hx hy, fAdd_finite hy hx, add_comm, Bool.and_comm]

theorem fDiv_zero_hundred : fDiv (fOfNat 0) (fOfNat 100) = fOfNat 0 :=
  fDiv_fOfNat (k := 0) (n := 100) (by norm_num) (by norm_num) (by norm_num) (by norm_num)

theorem delayInject_zero_feedback {input dl : F32} (hin : fPlain input = true) (hdl : fIsFinite dl = true) :
    delayInject (fOfNat 0) input dl = input := by
  rw [delayInject, fDiv_zero_hundred]
  exact fAdd_fMagnitude_zero hin (fMagnitude_fOfNat_zero_fMul hdl)

theorem delayBlend_full_mix {input dl : F32} (hin : fIsFinite input = true) (hdl : fPlain dl = true) :
    delayBlend (fOfNat 100) input dl = dl := by
  have hdry := fMagnitude_fMul_zero hin fMagnitude_fOfNat_zero
  rw [delayBlend, fSub_fOfNat (by norm_num) le_rfl, Nat.sub_self, fDiv_zero_hundred,
    fDiv_fOfNat_self (by norm_num) (by norm_num), fMul_fOfNat_one (finite_of_fPlain hdl),
    fAdd_comm_of_finite (finite_of_fMagnitude_zero hdry) (finite_of_fPlain hdl), fAdd_fMagnitude_zero hdl hdry]

/-! ### The words behind the write position as a queue -/

/-- The word index of the word d words behind the write position. -/
def wordBehind (dly : Delay) (d : Nat) : Nat :=
  dly.base.toNat + (dly.wp.toNat + dly.size.toNat - d) % dly.size.toNat

/-- The words behind the write position hold q, its front the farthest behind. -/
def HoldsQueue (p : Pool) (q : List F32) : Prop :=
  ∀ i (h : i < q.length), readCell p.mem (wordBehind p.dly (q.length - i)) = q[i]

/-- The line after one sample has been stored. -/
def pushSample (v : F32) (p : Pool) : Pool :=
  { p with
    mem := writeCell p.mem (p.dly.base.toNat + p.dly.wp.toNat) v
    dly := { p.dly with wp := BitVec.ofNat 32 ((p.dly.wp.toNat + 1) % p.dly.size.toNat) } }

section

variable {p : Pool} (hwp : p.dly.wp.toNat < p.dly.size.toNat)

include hwp

theorem pushSample_wp_toNat (v : F32) : (pushSample v p).dly.wp.toNat = (p.dly.wp.toNat + 1) % p.dly.size.toNat :=
  advanced_toNat _ (by omega)

theorem wordBehind_pushSample (v : F32) (d : Nat) :
    wordBehind (pushSample v p).dly d =
      p.dly.base.toNat + ((p.dly.wp.toNat + 1) % p.dly.size.toNat + p.dly.size.toNat - d) % p.dly.size.toNat := by
  rw [wordBehind, pushSample_wp_toNat hwp]
  rfl

/-- The word just written stands one word behind the new position. -/
theorem wordBehind_pushSample_one (v : F32) : wordBehind (pushSample v p).dly 1 = p.dly.base.toNat + p.dly.wp.toNat := by
  rw [wordBehind_pushSample hwp, mod_of_lt_two_mul (a := p.dly.wp.toNat + 1) (by omega),
    mod_of_lt_two_mul (by split_ifs <;> omega)]
  split_ifs <;> omega

/-- Every other word of the line is one word farther behind the new position, and is not the word written. -/
theorem wordBehind_pushSample_succ (v : F32) {d : Nat} (h0 : 0 < d) (h : d < p.dly.size.toNat) :
    wordBehind (pushSample v p).dly (d + 1) = wordBehind p.dly d ∧
      wordBehind p.dly d ≠ p.dly.base.toNat + p.dly.wp.toNat := by
  rw [wordBehind_pushSample hwp, wordBehind, mod_of_lt_two_mul (a := p.dly.wp.toNat + 1) (by omega),
    mod_of_lt_two_mul (by split_ifs <;> omega), mod_of_lt_two_mul (by omega)]
  split_ifs <;> omega

/-- A stored sample takes the place of the queue's front at its back. -/
theorem holdsQueue_pushSample {d : F32} {q : List F32} (hq : HoldsQueue p (d :: q)) (hlen : q.length < p.dly.size.toNat)
    (hwf : Memory.wf p.mem = true) (v : F32) : HoldsQueue (pushSample v p) (q ++ [v]) := by
  intro i hi
  rw [List.length_append, List.length_singleton] at hi ⊢
  show readCell (writeCell p.mem _ v) _ = _
  rw [readCell_writeCell _ _ _ hwf]
  by_cases hlast : i = q.length
  · subst hlast
    rw [Nat.add_sub_cancel_left, wordBehind_pushSample_one hwp v, if_pos rfl]
    simp
  · have hlt : i < q.length := by omega
    have hold := hq (i + 1) (by simpa using hlt)
    obtain ⟨hsame, hother⟩ := wordBehind_pushSample_succ hwp v (d := q.length - i) (by omega) (by omega)
    rw [show q.length + 1 - i = q.length - i + 1 by omega, hsame, if_neg hother, List.getElem_append_left hlt]
    simpa using hold

end

/-! ### One sample and many -/

theorem delayRun_eq_pushSample {cfg : Config} {x : Settings} {delayD : Word} {p : Pool} (h : delayReady cfg p)
    (hd : delayD.toNat ≤ p.dly.size.toNat) (input : F32) :
    delayRun cfg x delayD input p =
      (let dl := readCell p.mem (wordBehind p.dly delayD.toNat)
       .ok (delayBlend x.delayMix input dl, pushSample (delayInject x.delayFeedback input dl) p)) := by
  rw [delayRun_of_ready h, delayReadIndex_eq hd]
  rfl

theorem pushSample_ready {cfg : Config} {p : Pool} (h : delayReady cfg p) (v : F32) : delayReady cfg (pushSample v p) := by
  obtain ⟨hwp, hmem⟩ := h
  refine ⟨?_, hmem⟩
  rw [pushSample_wp_toNat hwp]
  exact Nat.mod_lt _ (by omega)

section

variable {cfg : Config} {x : Settings} {delayD : Word}

/-- At feedback 0 and mix 100 the queue's front comes back and the input is stored. -/
theorem delayRun_echo (hfeedback : x.delayFeedback = fOfNat 0) (hmix : x.delayMix = fOfNat 100) {p : Pool} {d : F32}
    {q : List F32} {input : F32} (hready : delayReady cfg p) (hsize : delayD.toNat ≤ p.dly.size.toNat)
    (hlen : delayD.toNat = (d :: q).length) (hq : HoldsQueue p (d :: q)) (hd : fPlain d = true)
    (hin : fPlain input = true) : delayRun cfg x delayD input p = .ok (d, pushSample input p) := by
  have hfront : readCell p.mem (wordBehind p.dly delayD.toNat) = d := by
    rw [hlen]
    exact hq 0 (Nat.succ_pos _)
  rw [delayRun_eq_pushSample hready hsize, hfront, hfeedback, hmix]
  dsimp only
  rw [delayInject_zero_feedback hin (finite_of_fPlain hd), delayBlend_full_mix (finite_of_fPlain hin) hd]

/-- The queue comes back first, then the inputs in their order. -/
theorem delayRuns_echo (hfeedback : x.delayFeedback = fOfNat 0) (hmix : x.delayMix = fOfNat 100) (hpos : 1 ≤ delayD.toNat)
    (inputs : List F32) (hin : ∀ y ∈ inputs, fPlain y = true) :
    ∀ {p : Pool} {q : List F32}, delayReady cfg p → Memory.wf p.mem = true → delayD.toNat ≤ p.dly.size.toNat →
      q.length = delayD.toNat → HoldsQueue p q → (∀ y ∈ q, fPlain y = true) →
      ∃ p', delayRuns cfg x delayD inputs p = .ok ((q ++ inputs).take inputs.length, p') := by
  induction inputs with
  | nil => exact fun {p q} _ _ _ _ _ _ => ⟨p, by simp [delayRuns]⟩
  | cons input rest ih =>
    intro p q hready hwf hsize hlen hq hplain
    cases q with
    | nil => exact absurd hlen (by simp only [List.length_nil]; omega)
    | cons d q =>
      obtain ⟨hinput, hrest⟩ := List.forall_mem_cons.1 hin
      obtain ⟨hd, htail⟩ := List.forall_mem_cons.1 hplain
      have hrun := delayRun_echo hfeedback hmix hready hsize hlen.symm hq hd hinput
      have hqueue := holdsQueue_pushSample hready.1 hq (by simp only [List.length_cons] at hlen; omega) hwf input
      have hplain' : ∀ y ∈ q ++ [input], fPlain y = true :=
        List.forall_mem_append.2 ⟨htail, List.forall_mem_singleton.2 hinput⟩
      obtain ⟨p', hruns⟩ := ih hrest (pushSample_ready hready input) (writeCell_wf _ _ hwf) hsize
        (by simpa using hlen) hqueue hplain'
      exact ⟨p', by simp [delayRuns, hrun, hruns]⟩

end

/-- Settles O46. -/
theorem delayEchoesExactly : Obligations.DelayEchoesExactly := by
  refine ⟨fun cfg x delayD p input => ?_, fun cfg x delayD p inputs => ?_⟩
  · intro n base wp hd hwp hmem hwf dl
    exact ⟨_, delayRun_eq_pushSample ⟨hwp, hmem⟩ hd input, fun b => readCell_writeCell _ b _ hwf⟩
  · intro hfeedback hmix hpos hsize hwp hmem hwf hempty hin
    have hwp' : p.dly.wp.toNat = 0 := by rw [hwp]; rfl
    refine delayRuns_echo hfeedback hmix hpos inputs hin (q := List.replicate delayD.toNat 0) ⟨by omega, hmem⟩ hwf hsize
      (by simp) (fun i _ => ?_) fun y hy => ?_
    · rw [wordBehind, hempty _ (Nat.mod_lt _ (by omega)), List.getElem_replicate]
    · rw [List.eq_of_mem_replicate hy]
      decide

end Sys2Proof.Machine
end

-- Proofs of the family 45_reverb_delay.md: the allocations at reset.
section
/-! The allocations at reset (70_reset_and_hazards.md R307, R308): the reverb's request on the whole of buffer memory, then the
delay's on what is left. Each leaves one of three results: not asked for, fitting, not fitting. -/

namespace Sys2Proof.Machine

open Sys2Proof

/-- Words taken from those that are free. -/
theorem toNat_free_sub {free : Word} {need : Nat} (h : need ≤ free.toNat) :
    (free - BitVec.ofNat 32 need).toNat = free.toNat - need := by
  have hneed : (BitVec.ofNat 32 need).toNat = need := by rw [BitVec.toNat_ofNat, Nat.mod_eq_of_lt (h.trans_lt free.isLt)]
  rw [BitVec.toNat_sub_of_le (BitVec.le_def.2 (by rwa [hneed])), hneed]

theorem emptyPool_free_toNat {cfg : Config} (hmem : cfg.memWords < 2 ^ 32) : (emptyPool cfg).free.toNat = cfg.memWords := by
  rw [emptyPool, BitVec.toNat_ofNat, Nat.mod_eq_of_lt hmem]

/-! ### The reverb's request -/

/-- What the reverb's request at reset leaves, by whether it was asked for and whether it fitted. -/
structure ReverbAtReset (cfg : Config) (lengths : Vector Nat 6) (asked fits : Bool) (r : AllocResult) : Prop where
  enabled : r.enabled = fits
  free : r.pool.free.toNat = if fits then cfg.memWords - lengths.toList.sum else cfg.memWords
  status : r.status = if asked && !fits then recordCode .reverbAlloc clearedStatus else clearedStatus
  len : fits = true → r.pool.rev.len.toList.map BitVec.toNat = lengths.toList
  idx : r.pool.rev.idx = Vector.replicate 6 0
  fs : r.pool.rev.fs = Vector.replicate 4 0
  dly : r.pool.dly = (emptyPool cfg).dly
  mem : r.pool.mem = []

theorem toNat_lengths_of_fit {cfg : Config} {rate : Word} (h : (reverbLengths cfg rate).toList.sum < 2 ^ 32) :
    ((reverbLengths cfg rate).map (BitVec.ofNat 32)).toList.map BitVec.toNat = (reverbLengths cfg rate).toList := by
  refine List.ext_getElem (by simp) fun j h1 h2 => ?_
  rw [List.getElem_map, Vector.getElem_toList, Vector.getElem_toList]
  exact toNat_length_of_fit h j (by simpa using h2)

theorem resetReverb_atReset {cfg : Config} (hmem : cfg.memWords < 2 ^ 32) (x : Settings) :
    ReverbAtReset cfg (reverbLengths cfg x.sampleRate) (decide (cfg.init.reverbEnable ≠ 0))
      (decide (cfg.init.reverbEnable ≠ 0 ∧ (reverbLengths cfg x.sampleRate).toList.sum ≤ cfg.memWords))
      (resetReverb cfg x) := by
  have hfree := emptyPool_free_toNat hmem
  unfold resetReverb
  by_cases hasked : cfg.init.reverbEnable = 0
  · rw [if_pos hasked, decide_eq_false (by simp [hasked]), decide_eq_false (by simp [hasked])]
    exact ⟨rfl, hfree, rfl, fun h => (Bool.false_ne_true h).elim, rfl, rfl, rfl, rfl⟩
  · rw [if_neg hasked, decide_eq_true hasked]
    by_cases hfit : (reverbLengths cfg x.sampleRate).toList.sum ≤ cfg.memWords
    · rw [decide_eq_true ⟨hasked, hfit⟩, tryReverb_of_fit (hfree.symm ▸ hfit)]
      refine ⟨rfl, ?_, rfl, fun _ => toNat_lengths_of_fit (hfit.trans_lt hmem), rfl, rfl, rfl, rfl⟩
      rw [if_pos rfl, ← hfree]
      exact toNat_free_sub (hfree.symm ▸ hfit)
    · rw [decide_eq_false fun h => hfit h.2, tryReverb_of_not_fit (hfree.symm ▸ not_le.1 hfit)]
      exact ⟨rfl, hfree, rfl, fun h => (Bool.false_ne_true h).elim, rfl, rfl, rfl, rfl⟩

/-! ### The delay's request -/

/-- What the delay's request at reset leaves of the reverb's result r, by whether it was asked for and whether it fitted. -/
structure DelayAtReset (delayN : Word) (asked fits : Bool) (r r' : AllocResult) : Prop where
  enabled : r'.enabled = fits
  free : r'.pool.free.toNat = if fits then r.pool.free.toNat - delayN.toNat else r.pool.free.toNat
  status : r'.status = if asked && !fits then recordCode .delayAlloc r.status else r.status
  size : r'.pool.dly.size.toNat = if fits then delayN.toNat else 0
  wp : r'.pool.dly.wp = 0
  rev : r'.pool.rev = r.pool.rev
  mem : r'.pool.mem = []

theorem resetDelay_atReset {cfg : Config} {r : AllocResult} (hdly : r.pool.dly = (emptyPool cfg).dly)
    (hmem : r.pool.mem = []) (d : Derived) :
    DelayAtReset d.delayN (decide (cfg.init.delayEnable ≠ 0))
      (decide (cfg.init.delayEnable ≠ 0 ∧ d.delayN.toNat ≤ r.pool.free.toNat)) r (resetDelay cfg d r) := by
  have hsize : r.pool.dly.size.toNat = 0 := by rw [hdly]; rfl
  have hwp : r.pool.dly.wp = 0 := by rw [hdly]; rfl
  unfold resetDelay
  by_cases hasked : cfg.init.delayEnable = 0
  · rw [if_pos hasked, decide_eq_false (by simp [hasked]), decide_eq_false (by simp [hasked])]
    exact ⟨rfl, rfl, rfl, hsize, hwp, rfl, hmem⟩
  · rw [if_neg hasked, decide_eq_true hasked]
    by_cases hfit : d.delayN.toNat ≤ r.pool.free.toNat
    · rw [decide_eq_true ⟨hasked, hfit⟩, tryDelay_of_fit hfit]
      refine ⟨rfl, BitVec.toNat_sub_of_le (BitVec.le_def.2 hfit), rfl, rfl, rfl, rfl, ?_⟩
      show clearRegion r.pool.mem _ _ = []
      rw [hmem]
      rfl
    · rw [decide_eq_false fun h => hfit h.2, tryDelay_of_not_fit (not_le.1 hfit)]
      exact ⟨rfl, rfl, rfl, hsize, hwp, rfl, hmem⟩

/-! ### Both -/

/-- STATUS after a reverb request and a delay request, by whether each failed. -/
def statusAfterRequests (failsReverb failsDelay : Bool) : Status :=
  let st := if failsReverb then recordCode .reverbAlloc clearedStatus else clearedStatus
  if failsDelay then recordCode .delayAlloc st else st

theorem statusAfterRequests_eq : ∀ failsReverb failsDelay : Bool,
    (statusAfterRequests failsReverb failsDelay).sticky.getLsbD 4 = failsReverb ∧
    (statusAfterRequests failsReverb failsDelay).sticky.getLsbD 5 = failsDelay ∧
    statusAfterRequests failsReverb failsDelay =
      { sticky := (if failsReverb then 0x10 else 0) ||| (if failsDelay then 0x20 else 0),
        lastCode := if failsDelay then 6 else if failsReverb then 5 else 0 } := by
  decide

/-- Settles O54. -/
theorem resetAllocations : Obligations.ResetAllocations := by
  intro cfg hc s lengths needReverb needDelay fitsReverb left fitsDelay
  obtain ⟨_, _, _, _, _, hmem, _⟩ := (isInstance_iff cfg).1 hc
  have buffers := (resetOf_sound hc).buffers
  have reverb := resetReverb_atReset hmem (initialSettings cfg)
  have delay := resetDelay_atReset reverb.dly reverb.mem (deriveAll (initialSettings cfg))
  have hneed : (deriveAll (initialSettings cfg)).delayN.toNat = needDelay := delayNOf_toNat _
  have hleft : (resetReverb cfg (initialSettings cfg)).pool.free.toNat = left := reverb.free
  rw [hneed, hleft] at delay
  have hstatus : s.status = statusAfterRequests (decide (cfg.init.reverbEnable ≠ 0) && !fitsReverb)
      (decide (cfg.init.delayEnable ≠ 0) && !fitsDelay) := delay.status.trans (by rw [reverb.status]; rfl)
  have hrev : s.pool.rev = (resetReverb cfg (initialSettings cfg)).pool.rev := delay.rev
  refine ⟨reverb.enabled, buffers.reverb.trans reverb.enabled, delay.enabled, buffers.delay.trans delay.enabled, ?_, ?_, ?_,
    ?_, ?_, ?_, delay.wp, delay.mem⟩
  · exact delay.free.trans (by rw [hneed, hleft])
  · intro failsReverb failsDelay
    rw [hstatus]
    exact statusAfterRequests_eq failsReverb failsDelay
  · rw [hrev, reverb.idx]
  · rw [hrev, reverb.fs]
  · rw [hrev]
    exact reverb.len
  · exact delay.size.trans (by rw [hneed])

end Sys2Proof.Machine
end

-- Proofs of the family 46_mixer.md: one TICK.
section
/-! One TICK (46_mixer.md R250 to R257, R260). The voices and the level are those of the whole bank by index, the filter and the EQ
are pure functions of the level, and the reverb and the delay are each a step on the level and the pool; what they leave of the
pool is what `ReverbRan` and `DelayKept` say. -/

namespace Sys2Proof.Machine

open Sys2Proof

/-! ### The voices and the mix -/

/-- What a TICK takes from the LFO. -/
def tickLfo (s : State) : LfoSample := lfoStep s.cfg s.settings s.derived.lfoInc s.lfoPhase

/-- What one voice gives in a TICK. -/
def tickSample (s : State) : Voice → BitVec 16 × Voice :=
  voiceGetSample s.cfg s.settings.waveform (tickLfo s).vib (tickLfo s).trem

/-- The voices whose samples a TICK averages: active before their sample and after it (46_mixer.md R251, R252). -/
def soundingVoices (s : State) : List Voice :=
  (s.voices.take s.settings.voiceCount.toNat).filter fun v => v.active && (tickSample s v).2.active

/-- The average of the sounding voices' samples (46_mixer.md R254). -/
def tickMixed (s : State) : F32 :=
  let sum := ((soundingVoices s).map fun v => (tickSample s v).1.toInt).sum
  if (soundingVoices s).length > 1 then fDiv (fOfInt sum) (fOfNat (soundingVoices s).length) else fOfInt sum

/-- The level that enters the effects. -/
def tickLevel (s : State) : F32 := scaleVolume s.settings.masterVolume (tickMixed s)

/-- The bank after a TICK. -/
def tickBank (s : State) : List Voice :=
  s.voices.mapIdx fun k v => if k < s.settings.voiceCount.toNat ∧ v.active = true then (tickSample s v).2 else v

section

variable (cfg : Config) (setting : Waveform) (vib trem : F32)

theorem voiceTick_voice (v : Voice) :
    (voiceTick cfg setting vib trem v).1 = if v.active = true then (voiceGetSample cfg setting vib trem v).2 else v := by
  unfold voiceTick
  split <;> rfl

theorem voiceTick_contribution (v : Voice) :
    (voiceTick cfg setting vib trem v).2 =
      if (v.active && (voiceGetSample cfg setting vib trem v).2.active) = true then
        some (voiceGetSample cfg setting vib trem v).1.toInt
      else none := by
  cases hv : v.active <;> simp [voiceTick, hv]

/-- The contributions are the samples of the voices that stay active. -/
theorem filterMap_contributions (vs : List Voice) :
    (vs.map (voiceTick cfg setting vib trem)).filterMap Prod.snd =
      (vs.filter fun v => v.active && (voiceGetSample cfg setting vib trem v).2.active).map
        fun v => (voiceGetSample cfg setting vib trem v).1.toInt := by
  rw [List.filterMap_map, ← List.filterMap_eq_map, List.filterMap_filter]
  congr 1
  funext v
  exact voiceTick_contribution cfg setting vib trem v

end

theorem mixAverage_map {α : Type} (f : α → Int) (l : List α) :
    mixAverage (l.map f) =
      if l.length > 1 then fDiv (fOfInt (l.map f).sum) (fOfNat l.length) else fOfInt (l.map f).sum := by
  rw [mixAverage, List.length_map]

theorem tickVoices_level (s : State) : (tickVoices s).1 = tickLevel s := by
  show scaleVolume _ (mixAverage ((tickedVoices s (tickLfo s)).filterMap Prod.snd)) = _
  rw [tickedVoices, filterMap_contributions, mixAverage_map]
  rfl

theorem tickVoices_state (s : State) :
    (tickVoices s).2 = (s.withLfoPhase (tickLfo s).phase).withVoices (tickBank s) := by
  show State.withVoices _ ((tickedVoices s (tickLfo s)).map Prod.fst ++ _) = _
  rw [tickedVoices, List.map_map, map_take_append_drop_eq_mapIdx]
  congr 2
  funext k v
  rw [Function.comp_apply, voiceTick_voice]
  exact (ite_and _ _ _ _).symm

/-! ### The effects -/

/-- The level after the filter's stage, and the filter's state. -/
def filtered (s : State) (m : F32) : F32 × Svf :=
  if s.settings.filterEnable then svfRun s.settings.filterType s.derived.filterF s.derived.filterQ m s.svf else (m, s.svf)

/-- The level after the EQ's stage, and the EQ's state. -/
def equalised (s : State) (m : F32) : F32 × Vector EqHistory 3 :=
  if s.settings.eqEnable then eqRun s.derived.eqCoef m s.eq else (m, s.eq)

/-- The reverb's stage gives this level and pool. -/
def ReverbGives (s : State) (m : F32) (r : F32 × Pool) : Prop :=
  if s.settings.reverbEnable then reverbRun s.cfg s.settings s.derived.reverbFb m s.pool = .ok r else r = (m, s.pool)

/-- The delay's stage, from a level and a pool, gives this level and pool. -/
def DelayGives (s : State) (r d : F32 × Pool) : Prop :=
  if s.settings.delayEnable then delayRun s.cfg s.settings s.derived.delayD r.1 r.2 = .ok d else d = r

theorem filterStage_eq (m : F32) (s : State) : filterStage m s = ((filtered s m).1, s.withSvf (filtered s m).2) := by
  unfold filterStage filtered
  split <;> rfl

theorem eqStage_eq (m : F32) (s : State) : eqStage m s = ((equalised s m).1, s.withEq (equalised s m).2) := by
  unfold eqStage equalised
  split <;> rfl

section

variable {s : State} {m : F32} {r d : F32 × Pool}

theorem reverbGives_of_enabled (hon : s.settings.reverbEnable = true) :
    ReverbGives s m r ↔ reverbRun s.cfg s.settings s.derived.reverbFb m s.pool = .ok r := by rw [ReverbGives, if_pos hon]

theorem reverbGives_of_disabled (hoff : s.settings.reverbEnable = false) : ReverbGives s m r ↔ r = (m, s.pool) := by
  rw [ReverbGives, if_neg (by simp [hoff])]

theorem delayGives_of_enabled (hon : s.settings.delayEnable = true) :
    DelayGives s r d ↔ delayRun s.cfg s.settings s.derived.delayD r.1 r.2 = .ok d := by rw [DelayGives, if_pos hon]

theorem delayGives_of_disabled (hoff : s.settings.delayEnable = false) : DelayGives s r d ↔ d = r := by
  rw [DelayGives, if_neg (by simp [hoff])]

theorem ReverbGives.stage (h : ReverbGives s m r) : reverbStage m s = .ok (r.1, s.withPool r.2) := by
  unfold reverbStage
  split
  case isTrue hon => rw [(reverbGives_of_enabled hon).1 h]
  case isFalse hoff =>
    obtain rfl := (reverbGives_of_disabled (Bool.eq_false_iff.2 hoff)).1 h
    rfl

theorem DelayGives.stage (h : DelayGives s (m, s.pool) d) : delayStage m s = .ok (d.1, s.withPool d.2) := by
  unfold delayStage
  split
  case isTrue hon => rw [(delayGives_of_enabled hon).1 h]
  case isFalse hoff =>
    obtain rfl := (delayGives_of_disabled (Bool.eq_false_iff.2 hoff)).1 h
    rfl

/-- The four stages in their order (46_mixer.md R253), once the reverb and the delay answer. -/
theorem effectsChain_of_gives (hr : ReverbGives s (equalised s (filtered s m).1).1 r) (hd : DelayGives s r d) :
    effectsChain m s =
      .ok (d.1, ((s.withSvf (filtered s m).2).withEq (equalised s (filtered s m).1).2).withPool d.2) := by
  have hfiltered : equalised (s.withSvf (filtered s m).2) (filtered s m).1 = equalised s (filtered s m).1 := rfl
  have hreverb := ReverbGives.stage (s := (s.withSvf (filtered s m).2).withEq (equalised s (filtered s m).1).2) hr
  have hdelay := DelayGives.stage
    (s := ((s.withSvf (filtered s m).2).withEq (equalised s (filtered s m).1).2).withPool r.2) hd
  simp only [effectsChain, filterStage_eq, eqStage_eq, hfiltered, hreverb, hdelay]
  rfl

/-! ### The whole TICK -/

/-- The level that enters the reverb, with the EQ's state. -/
def tickEqualised (s : State) : F32 × Vector EqHistory 3 := equalised s (filtered s (tickLevel s)).1

/-- The state after a TICK whose delay's stage gives this level and pool. -/
def afterTick (s : State) (d : F32 × Pool) : State :=
  { s with
    lfoPhase := (tickLfo s).phase
    voices := tickBank s
    svf := (filtered s (tickLevel s)).2
    eq := (tickEqualised s).2
    pool := d.2
    sampleCount := s.sampleCount + 1
    frames := s.frames ++ [frameOf s.cfg (toInt16 d.1)] }

theorem exec_tick_of_gives (hrun : s.halted = false) (hr : ReverbGives s (tickEqualised s).1 r) (hd : DelayGives s r d) :
    exec (.tick 0 0 0) s = .next (afterTick s d) := by
  have hchain := effectsChain_of_gives (s := (s.withLfoPhase (tickLfo s).phase).withVoices (tickBank s)) hr hd
  rw [exec_tick hrun, tickRule, tickVoices_level, tickVoices_state]
  simp only [hchain]
  rfl

/-- Without reverb and delay the equalised level goes straight to the frame. -/
theorem exec_tick_without_buffers (hrun : s.halted = false) (hreverb : s.settings.reverbEnable = false)
    (hdelay : s.settings.delayEnable = false) :
    exec (.tick 0 0 0) s = .next (afterTick s ((tickEqualised s).1, s.pool)) :=
  exec_tick_of_gives hrun ((reverbGives_of_disabled hreverb).2 rfl) ((delayGives_of_disabled hdelay).2 rfl)

/-! ### Silence -/

theorem toInt16_of_fMagnitude_zero {x : F32} (h : fMagnitude x = 0) : toInt16 x = 0 := by
  have hzero := (fUnits_eq_zero_iff x).2 h
  have hpos := fOneUnits_pos
  have between : (toInt16 x).toInt = (fUnits x).tdiv fOneUnits :=
    toInt16_of_between
      ((fLt_iff _ _).2 ⟨fIsNaN_fOfInt _, not_nan_of_fMagnitude_zero h, by rw [hzero, fUnits_int16_min]; omega⟩)
      ((fLt_iff _ _).2 ⟨not_nan_of_fMagnitude_zero h, fIsNaN_fOfInt _, by
        rw [hzero, fOfInt_int16_max, fUnits_int16_max]; omega⟩)
  rw [hzero, Int.zero_tdiv] at between
  exact BitVec.eq_of_toInt_eq between

theorem scaleVolume_zero (volume : BitVec 8) : fMagnitude (scaleVolume volume (fOfNat 0)) = 0 :=
  fMagnitude_fOfNat_zero_fMul (isFactor_fDiv (n := 255) (by norm_num) (by norm_num) (fUnits_fOfNat_nonneg _)
    (fUnits_fOfNat_le (by norm_num) (by omega))).finite

theorem soundingVoices_of_silent (h : ∀ v ∈ s.voices, v.active = false) : soundingVoices s = [] :=
  List.filter_eq_nil_iff.2 fun v hv => by simp [h v (List.mem_of_mem_take hv)]

theorem fMagnitude_tickLevel_of_silent (h : ∀ v ∈ s.voices, v.active = false) : fMagnitude (tickLevel s) = 0 := by
  have hmixed : tickMixed s = fOfNat 0 := by
    rw [tickMixed, soundingVoices_of_silent h]
    exact fOfInt_natCast 0
  rw [tickLevel, hmixed]
  exact scaleVolume_zero _

theorem tickBank_of_silent (h : ∀ v ∈ s.voices, v.active = false) : tickBank s = s.voices :=
  List.ext_getElem (by simp [tickBank]) fun k _ hk => by simp [tickBank, h _ (List.getElem_mem hk)]

/-- With the filter and the EQ disabled the level enters the reverb as it is. -/
theorem tickEqualised_of_disabled (hfilter : s.settings.filterEnable = false) (heq : s.settings.eqEnable = false) :
    (tickEqualised s).1 = tickLevel s := by
  simp [tickEqualised, equalised, filtered, hfilter, heq]

end

/-- Settles O30. -/
theorem tickWithoutBuffersEffect : Obligations.TickWithoutBuffersEffect := by
  refine ⟨fun s hrun hreverb hdelay => exec_tick_without_buffers hrun hreverb hdelay,
    fun s hrun hsilent hfilter heq hreverb hdelay =>
      ⟨_, exec_tick_without_buffers hrun hreverb hdelay, tickBank_of_silent hsilent, ?_⟩⟩
  have hout : toInt16 (tickEqualised s).1 = 0 := by
    rw [tickEqualised_of_disabled hfilter heq]
    exact toInt16_of_fMagnitude_zero (fMagnitude_tickLevel_of_silent hsilent)
  show s.frames ++ [frameOf s.cfg (toInt16 (tickEqualised s).1)] = _
  rw [hout]
  rfl

/-! ### The buffers -/

/-- What the delay's stage leaves of a pool: all but its own position and the word there, which it touches only if enabled. -/
structure DelayKept (on : Bool) (p p' : Pool) : Prop where
  free : p'.free = p.free
  rev : p'.rev = p.rev
  dly : on = false → p'.dly = p.dly
  mem : Memory.wf p.mem = true → ∀ a, (on = true → a ≠ p.dly.base.toNat + p.dly.wp.toNat) →
    readCell p'.mem a = readCell p.mem a

/-- The reverb's buffers that a TICK runs. -/
def tickBuffers (on : Bool) : List (Fin 6) := if on then [0, 1, 2, 3, 4, 5] else []

section

variable {s : State} {m : F32} {r d : F32 × Pool}

theorem ReverbGives.ran (h : ReverbGives s m r) : ReverbRan (tickBuffers s.settings.reverbEnable) s.pool r.2 := by
  cases hon : s.settings.reverbEnable with
  | true => exact reverbRun_ok ((reverbGives_of_enabled hon).1 h)
  | false =>
    obtain rfl := (reverbGives_of_disabled hon).1 h
    exact .refl s.pool

theorem DelayGives.kept (h : DelayGives s r d) : DelayKept s.settings.delayEnable r.2 d.2 := by
  cases hon : s.settings.delayEnable with
  | true =>
    obtain ⟨v, hpool⟩ := delayRun_ok ((delayGives_of_enabled hon).1 h)
    rw [hpool]
    exact ⟨rfl, rfl, nofun, fun hwf a ha => (readCell_writeCell _ a v hwf).trans (if_neg (ha rfl))⟩
  | false =>
    obtain rfl := (delayGives_of_disabled hon).1 h
    exact ⟨rfl, rfl, fun _ => rfl, fun _ _ _ => rfl⟩

theorem EffectsReady.reverbGives (h : EffectsReady s) (m : F32) : ∃ r, ReverbGives s m r := by
  cases hon : s.settings.reverbEnable with
  | true =>
    obtain ⟨r, hrun⟩ := reverbRun_of_ready (x := s.settings) (fb := s.derived.reverbFb) (input := m) (h.reverb hon)
    exact ⟨r, (reverbGives_of_enabled hon).2 hrun⟩
  | false => exact ⟨_, (reverbGives_of_disabled hon).2 rfl⟩

/-- The delay's stage answers on any pool that has the delay as it was. -/
theorem EffectsReady.delayGives (h : EffectsReady s) (hdly : r.2.dly = s.pool.dly) : ∃ d, DelayGives s r d := by
  cases hon : s.settings.delayEnable with
  | true =>
    have ready : delayReady s.cfg r.2 := by
      rw [delayReady, hdly]
      exact h.delay hon
    exact ⟨_, (delayGives_of_enabled hon).2 (delayRun_of_ready ready)⟩
  | false => exact ⟨_, (delayGives_of_disabled hon).2 rfl⟩

/-- A word at no index of a running buffer reads as before the reverb and the delay. -/
theorem readCell_after_effects (hr : ReverbGives s m r) (hd : DelayGives s r d) (hwf : Memory.wf s.pool.mem = true) {a : Nat}
    (hreverb : s.settings.reverbEnable = true → ∀ j : Fin 6, a ≠ bufferBase s.pool.rev j + s.pool.rev.idx[j].toNat)
    (hdelay : s.settings.delayEnable = true → a ≠ s.pool.dly.base.toNat + s.pool.dly.wp.toNat) :
    readCell d.2.mem a = readCell s.pool.mem a := by
  have after_delay : readCell d.2.mem a = readCell r.2.mem a := by
    refine hd.kept.mem (hr.ran.wf hwf) a ?_
    rw [hr.ran.dly]
    exact hdelay
  refine after_delay.trans (hr.ran.mem hwf a fun j hj => ?_)
  cases hon : s.settings.reverbEnable with
  | true => exact hreverb hon j
  | false => simp [tickBuffers, hon] at hj

end

/-- Settles O31. -/
theorem tickCompletes : Obligations.TickCompletes := by
  intro s hrun _ hbuffers
  have ok := (buffersOk_iff s).1 hbuffers
  obtain ⟨r, hr⟩ := ok.effectsReady.reverbGives (tickEqualised s).1
  obtain ⟨d, hd⟩ := ok.effectsReady.delayGives hr.ran.dly
  refine ⟨r, d, hr, hd, exec_tick_of_gives hrun hr hd, hd.kept.free.trans hr.ran.free, fun hoff => ?_,
    fun hoff => (hd.kept.dly hoff).trans hr.ran.dly, fun a => readCell_after_effects hr hd ok.pool.mem⟩
  obtain rfl := (reverbGives_of_disabled hoff).1 hr
  exact hd.kept.rev

end Sys2Proof.Machine
end

-- Proofs of the family 47_system.md: the system commands.
section
/-! The system commands (47_system.md R265 to R279): what SHUTDOWN gives back, which of the two buffers SET_SAMPLE_RATE
reallocates, and the voices that SET_VOICE_COUNT forces off. -/

namespace Sys2Proof.Machine

open Sys2Proof

/-- Settles O15: both commands are exempt from the check of the halted state. -/
theorem nopAndClearStatus : Obligations.NopAndClearStatus := fun s => ⟨exec_nop s, exec_clearStatus s⟩

/-! ### SHUTDOWN -/

/-- Disabling the reverb in either state of its enable (45_reverb_delay.md R223, R238). -/
theorem reverbEnableRule_false_eq (s : State) :
    reverbEnableRule false s =
      { s with
        settings := { s.settings with reverbEnable := false }
        pool :=
          { s.pool with
            free := s.pool.free + if s.settings.reverbEnable then BitVec.ofNat 32 (reverbSize s.pool.rev) else 0
            rev := if s.settings.reverbEnable then { s.pool.rev with allocated := false } else s.pool.rev } } := by
  cases hon : s.settings.reverbEnable with
  | true => exact reverbEnableRule_disable hon
  | false =>
    calc reverbEnableRule false s = s := by simpa only [hon] using reverbEnableRule_self s
      _ = s.withReverbEnable false := (withReverbEnable_of_eq hon).symm
      _ = _ := by simp [State.withReverbEnable, State.withSettings]

/-- Disabling the delay in either state of its enable (45_reverb_delay.md R235, R242). -/
theorem delayEnableRule_false_eq (s : State) :
    delayEnableRule false s =
      { s with
        settings := { s.settings with delayEnable := false }
        pool :=
          { s.pool with
            free := s.pool.free + if s.settings.delayEnable then s.pool.dly.size else 0
            dly := if s.settings.delayEnable then { s.pool.dly with allocated := false, size := 0, wp := 0 }
              else s.pool.dly } } := by
  cases hon : s.settings.delayEnable with
  | true => exact delayEnableRule_disable hon
  | false =>
    calc delayEnableRule false s = s := by simpa only [hon] using delayEnableRule_self s
      _ = s.withDelayEnable false := (withDelayEnable_of_eq hon).symm
      _ = _ := by simp [State.withDelayEnable, State.withSettings]

/-- Settles O16: SHUTDOWN silences the voices, disables the reverb and then the delay, and halts. -/
theorem shutdownEffect : Obligations.ShutdownEffect := by
  intro s hrun
  rw [exec_shutdown hrun, shutdownRule_eq, reverbEnableRule_false_eq, delayEnableRule_false_eq]
  rfl

/-! ### SET_SAMPLE_RATE -/

section

variable {s : State}

/-- A reverb of FIXED lengths, or one that is not allocated, is not reallocated (45_reverb_delay.md R246). -/
theorem reverb_not_reallocated (h : s.cfg.reverbLenMode = .fixed ∨ s.pool.rev.allocated = false) :
    (s.cfg.reverbLenMode == .scaled && s.pool.rev.allocated) = false := by
  rcases h with h | h <;> simp [h]

theorem effectsRealloc_of_none (hrev : s.cfg.reverbLenMode = .fixed ∨ s.pool.rev.allocated = false)
    (hdly : s.pool.dly.allocated = false) : effectsRealloc s = s := by
  simp [effectsRealloc, reverb_not_reallocated hrev, hdly]

theorem effectsRealloc_of_delay (hrev : s.cfg.reverbLenMode = .fixed ∨ s.pool.rev.allocated = false)
    (hdly : s.pool.dly.allocated = true) : effectsRealloc s = delayAlloc (delayFree s) := by
  simp [effectsRealloc, reverb_not_reallocated hrev, hdly]

theorem effectsRealloc_of_reverb (hmode : s.cfg.reverbLenMode = .scaled) (hrev : s.pool.rev.allocated = true)
    (hdly : s.pool.dly.allocated = false) : effectsRealloc s = reverbAlloc (reverbFree s) := by
  simp [effectsRealloc, hmode, hrev, hdly]

theorem effectsRealloc_of_both (hmode : s.cfg.reverbLenMode = .scaled) (hrev : s.pool.rev.allocated = true)
    (hdly : s.pool.dly.allocated = true) :
    effectsRealloc s = delayAlloc (reverbAlloc (delayFree (reverbFree s))) := by
  simp [effectsRealloc, hmode, hrev, hdly]

theorem sampleRateRule_of_same {rate : Word} (h : clampSampleRate s.cfg rate.toNat = s.settings.sampleRate) :
    sampleRateRule rate s = withRate rate s := (sampleRateRule_eq rate s).trans (if_pos h)

theorem sampleRateRule_of_new {rate : Word} (h : clampSampleRate s.cfg rate.toNat ≠ s.settings.sampleRate) :
    sampleRateRule rate s = effectsRealloc (withRate rate s) := (sampleRateRule_eq rate s).trans (if_neg h)

/-- With the rate unchanged or no buffer to reallocate, only the rate and the coefficients are written. -/
theorem sampleRateRule_of_no_realloc {rate : Word}
    (h : clampSampleRate s.cfg rate.toNat = s.settings.sampleRate
      ∨ (s.cfg.reverbLenMode = .fixed ∨ s.pool.rev.allocated = false) ∧ s.pool.dly.allocated = false) :
    sampleRateRule rate s = withRate rate s := by
  by_cases hsame : clampSampleRate s.cfg rate.toNat = s.settings.sampleRate
  · exact sampleRateRule_of_same hsame
  · obtain ⟨hrev, hdly⟩ := h.resolve_left hsame
    exact (sampleRateRule_of_new hsame).trans (effectsRealloc_of_none (s := withRate rate s) hrev hdly)

end

/-- Settles O17: `withRate` is what the command writes before it reallocates, and it leaves both buffers as they are. -/
theorem sampleRateEffect : Obligations.SampleRateEffect := by
  refine ⟨fun s rate hrun hidle => ?_, fun s rate hrun hnew => ?_⟩
  · rw [exec_setSampleRate hrun, sampleRateRule_of_no_realloc hidle]
    rfl
  · rw [exec_setSampleRate hrun, sampleRateRule_of_new hnew]
    exact ⟨fun hmode hrev hdly => congrArg _ (effectsRealloc_of_both (s := withRate rate s) hmode hrev hdly),
      fun hmode hrev hdly => congrArg _ (effectsRealloc_of_reverb (s := withRate rate s) hmode hrev hdly),
      fun hrev hdly => congrArg _ (effectsRealloc_of_delay (s := withRate rate s) hrev hdly)⟩

/-! ### SET_VOICE_COUNT and SET_WAVEFORM -/

/-- Mapping the elements from a position on is mapping every element by its index. -/
theorem take_append_map_drop_eq_mapIdx {α : Type} (f : α → α) (n : Nat) (xs : List α) :
    xs.take n ++ (xs.drop n).map f = xs.mapIdx fun k x => if k < n then x else f x := by
  refine List.ext_getElem (by simp; omega) fun k _ hk => ?_
  have hlen : k < xs.length := by simpa using hk
  rw [List.getElem_mapIdx]
  by_cases hlt : k < n
  · rw [if_pos hlt, List.getElem_append_left (by simp [hlt, hlen]), List.getElem_take]
  · have hback : n + (k - min n xs.length) = k := by omega
    rw [if_neg hlt, List.getElem_append_right (by simp; omega)]
    simp [hback]

theorem clampVoiceCount_toNat {cfg : Config} (hc : isInstance cfg = true) (count : Nat) :
    (clampVoiceCount cfg count).toNat = min (max count 1) cfg.maxVoices := by
  obtain ⟨⟨_, hmax⟩, _⟩ := (isInstance_iff cfg).1 hc
  rw [clampVoiceCount, clampNat, BitVec.toNat_ofNat, Nat.mod_eq_of_lt (by omega)]

theorem voiceCountRule_eq {s : State} (hc : isInstance s.cfg = true) (count : BitVec 8) :
    voiceCountRule count s =
      (s.withVoices (s.voices.mapIdx fun k v =>
        if k < min (max count.toNat 1) s.cfg.maxVoices then v else silenceVoice v)).withSettings
        { s.settings with voiceCount := clampVoiceCount s.cfg count.toNat } := by
  rw [voiceCountRule, take_append_map_drop_eq_mapIdx, clampVoiceCount_toNat hc]

/-- A waveform's code is the code that selects it, clamped to 4 (42_voice.md R172). -/
theorem waveformCode_waveformOfCode (n : Nat) : (waveformCode (waveformOfCode n)).toNat = min n 4 := by
  have hle : min n 4 ≤ 4 := Nat.min_le_right n 4
  rw [waveformOfCode]
  generalize min n 4 = code at hle ⊢
  interval_cases code <;> rfl

/-- Settles O18. -/
theorem voiceCountVolumeAndWaveform : Obligations.VoiceCountVolumeAndWaveform := by
  refine fun s hrun => ⟨fun count hc => ?_, exec_setMasterVolume hrun,
    fun code => ⟨waveformOfCode code.toNat, waveformCode_waveformOfCode _, exec_setWaveform hrun code⟩⟩
  rw [exec_setVoiceCount hrun, voiceCountRule_eq hc]
  rfl

end Sys2Proof.Machine
end

-- Proofs of the family 60_exceptions.md: recording a code.
section
/-! Recording a code (60_exceptions.md R287), bit by bit: a code's own bit is set, and every other bit stays as it was. -/

namespace Sys2Proof.Machine

open Sys2Proof

theorem codeNumber_pos (code : Code) : 0 < codeNumber code := by
  cases code <;> decide

theorem getLsbD_sticky_recordCode (code : Code) (st : Status) {k : Nat} (hk : k < 7) :
    (recordCode code st).sticky.getLsbD k = (decide (k + 1 = codeNumber code) || st.sticky.getLsbD k) := by
  have hpos := codeNumber_pos code
  have hbit : (BitVec.ofNat 7 (2 ^ (codeNumber code - 1))).getLsbD k = decide (k + 1 = codeNumber code) := by
    rw [BitVec.getLsbD_ofNat, Nat.testBit_two_pow, decide_eq_true hk, Bool.true_and, decide_eq_decide]
    omega
  rw [recordCode, BitVec.getLsbD_or, hbit, Bool.or_comm]

/-- Settles O11. -/
theorem recordingACode : Obligations.RecordingACode :=
  ⟨fun s code => ⟨rfl, rfl, fun _ hk => getLsbD_sticky_recordCode code s.status hk⟩, rfl⟩

end Sys2Proof.Machine
end

-- Proofs of the family 70_reset_and_hazards.md: the values at reset.
section
/-! The values at reset (70_reset_and_hazards.md R305, R306, R308). Only the two allocation requests write STATUS, and each
records its own code or none; every setting but the two enables of those requests is its clamp in `initialSettings`. -/

namespace Sys2Proof.Machine

open Sys2Proof

/-! ### STATUS at reset -/

/-- An allocation request sets no bit of STATUS but its own. -/
theorem getLsbD_sticky_settleAlloc {code : Code} {k : Nat} (hk : k < 7) (hne : k + 1 ≠ codeNumber code)
    (attempt : Option Pool) (p : Pool) (st : Status) :
    (settleAlloc code attempt p st).status.sticky.getLsbD k = st.sticky.getLsbD k := by
  cases attempt with
  | some _ => rfl
  | none =>
    show (recordCode code st).sticky.getLsbD k = _
    rw [getLsbD_sticky_recordCode code st hk, decide_eq_false hne, Bool.false_or]

theorem getLsbD_sticky_resetReverb (cfg : Config) (x : Settings) {k : Nat} (hk : k < 7) (hne : k ≠ 4) :
    (resetReverb cfg x).status.sticky.getLsbD k = false := by
  have hcleared : clearedStatus.sticky.getLsbD k = false := BitVec.getLsbD_zero
  unfold resetReverb
  split_ifs
  · exact hcleared
  · rw [getLsbD_sticky_settleAlloc hk (by rw [codeNumber]; omega), hcleared]

theorem getLsbD_sticky_resetDelay (cfg : Config) (d : Derived) (r : AllocResult) {k : Nat} (hk : k < 7) (hne : k ≠ 5) :
    (resetDelay cfg d r).status.sticky.getLsbD k = r.status.sticky.getLsbD k := by
  unfold resetDelay
  split_ifs
  · rfl
  · exact getLsbD_sticky_settleAlloc hk (by rw [codeNumber]; omega) _ _ _

/-- Of STATUS only the bits of codes 5 and 6 can be set at reset. -/
theorem getLsbD_sticky_resetOf (cfg : Config) {k : Nat} (hk : k < 7) (hreverb : k ≠ 4) (hdelay : k ≠ 5) :
    (State.resetOf cfg).status.sticky.getLsbD k = false :=
  (getLsbD_sticky_resetDelay cfg _ _ hk hdelay).trans (getLsbD_sticky_resetReverb cfg _ hk hreverb)

/-- With neither effect asked for, nothing is recorded at reset. -/
theorem resetOf_status_of_not_asked {cfg : Config} (hreverb : cfg.init.reverbEnable = 0)
    (hdelay : cfg.init.delayEnable = 0) : (State.resetOf cfg).status = clearedStatus := by
  show (resetDelay cfg _ (resetReverb cfg _)).status = clearedStatus
  rw [resetDelay, if_pos hdelay, resetReverb, if_pos hreverb]

/-! ### The settings at reset -/

theorem clampSampleRate_toNat {cfg : Config} (hc : isInstance cfg = true) (rate : Nat) :
    (clampSampleRate cfg rate).toNat = min (max rate cfg.srMin) cfg.srMax := by
  obtain ⟨_, ⟨_, _, hmax⟩, _⟩ := (isInstance_iff cfg).1 hc
  rw [clampSampleRate, clampNat, BitVec.toNat_ofNat, Nat.mod_eq_of_lt (by omega)]

theorem initialSettings_masterVolume_toNat (cfg : Config) :
    (initialSettings cfg).masterVolume.toNat = min cfg.init.masterVolume 255 := by
  show (BitVec.ofNat 8 (min cfg.init.masterVolume 255)).toNat = _
  rw [BitVec.toNat_ofNat, Nat.mod_eq_of_lt (by omega)]

/-- An enable of INIT_SETTINGS is 1 where the field is not 0 (70_reset_and_hazards.md R306). -/
theorem enable_eq_decide (field : Nat) : (field != 0) = decide (field ≠ 0) := decide_not.symm

/-- Settles O53: what the two allocation requests write is left to O54, so every other value is read off `State.resetOf`. -/
theorem resetValues : Obligations.ResetValues := by
  intro cfg s
  have voices : ∀ v ∈ s.voices, v = idleVoice := fun v hv => List.eq_of_mem_replicate hv
  have sticky : ∀ k, k < 7 → k ≠ 4 → k ≠ 5 → s.status.sticky.getLsbD k = false :=
    fun _ hk hreverb hdelay => getLsbD_sticky_resetOf cfg hk hreverb hdelay
  have ranges (hc : isInstance cfg = true) := (resetOf_inv hc).settings
  refine ⟨rfl, rfl, rfl, rfl, rfl, rfl, rfl, rfl, rfl, List.length_replicate, voices, rfl, rfl, sticky,
    resetOf_status_of_not_asked, fun hc => ⟨ranges hc, clampSampleRate_toNat hc _, clampVoiceCount_toNat hc _⟩,
    initialSettings_masterVolume_toNat cfg, waveformCode_waveformOfCode _, filterTypeCode_filterTypeOfCode _,
    enable_eq_decide _, enable_eq_decide _, enable_eq_decide _, enable_eq_decide _, enable_eq_decide _, ?_⟩
  exact ⟨rfl, rfl, rfl, rfl, rfl, rfl, rfl, rfl, rfl, rfl, rfl, rfl, rfl⟩

/-- Settles O56. -/
theorem resetHasInvariant : Obligations.ResetHasInvariant := fun _ hc => resetOf_inv hc

end Sys2Proof.Machine
end
